-- ==== Sys2Proof/Word.lean ====
section
/-! DEFINITION. The word types of the block: every register and operand `name:N` is a bit vector of its width
(00_scope.md R8, 30_encoding.md R83). -/

namespace Sys2Proof

/-- One-bit operands and response fields: a level (1 = high, 0 = low; R11), a width select, a presence flag. -/
abbrev Bit := BitVec 1

/-- Button codes, bit counts, guard ratios, cursors: the 8-bit registers and operands. -/
abbrev Byte := BitVec 8

/-- Durations, duration sums, time units and repeat counts: the 32-bit registers and operands. -/
abbrev Dur := BitVec 32

/-- Data words and serials, 64 bits. -/
abbrev Data := BitVec 64

/-- A command as the host issues it (30_encoding.md R80): the opcode byte `cmd[7:0]` and, above it, an operand bundle
wide enough for the widest format, C (64+8+8+32+1+32+1+32+1 = 179 bits). DESIGN CHOICE, log entry 3: the spec
gives the bundle's fields and widths, not their places. -/
abbrev Command := BitVec 187

end Sys2Proof
end

