-- ==== Sys2Proof/Syntax.lean ====
section
/-! DEFINITION. The commands of the block, one constructor per row of spec/opcode_table.json, with the operand fields of
its format in the order of 30_encoding.md R81; and the assembler lines of R86 and R87, with operands as written. -/

namespace Sys2Proof

/-- The 17 commands (R84). Every operand is a bit vector of its field's width, so no command has an operand that is too
large (R83). -/
inductive Instr where
  /-- 0x00, format E. -/
  | feed (level : Bit) (dur : Dur)
  /-- 0x01, format N. -/
  | drst
  /-- 0x02, format N. -/
  | rdrec
  /-- 0x03, format N. -/
  | hash
  /-- 0x10, format B. -/
  | fwid (v : Byte)
  /-- 0x11, format D. -/
  | split (data : Data)
  /-- 0x12, format P. -/
  | pack (serial : Data) (button : Byte) (wsel : Bit)
  /-- 0x13, format M. -/
  | remap (orig dir : Byte) (wsel : Bit)
  /-- 0x20, format C. -/
  | config (serial : Data) (button bits : Byte) (te : Dur) (teP : Bit) (guard : Dur) (guardP : Bit) (rep : Dur) (repP : Bit)
  /-- 0x21, format N. -/
  | next
  /-- 0x22, format N. -/
  | stop
  /-- 0x30, format N. -/
  | getorig
  /-- 0x31, format B. -/
  | setorig (v : Byte)
  /-- 0x32, format N. -/
  | getvbtn
  /-- 0x33, format B. -/
  | setvbtn (v : Byte)
  /-- 0x34, format N. -/
  | getvmax
  /-- 0x35, format B. -/
  | setvmax (v : Byte)
  deriving DecidableEq, Repr

/-- A line of assembler text (R86), its operands the numbers written, before any check that they fit their fields; the
last six are the pseudo-instructions of R87. `configNamed` is CONFIG with named operands, of which `te`, `guard` and
`rep` may be left out. -/
inductive AsmLine where
  | feed (level dur : Nat)
  | drst
  | rdrec
  | hash
  | fwid (v : Nat)
  | split (data : Nat)
  | pack (serial button wsel : Nat)
  | remap (orig dir wsel : Nat)
  | config (serial button bits te teP guard guardP rep repP : Nat)
  | configNamed (serial button bits : Nat) (te guard rep : Option Nat)
  | next
  | stop
  | getorig
  | setorig (v : Nat)
  | getvbtn
  | setvbtn (v : Nat)
  | getvmax
  | setvmax (v : Nat)
  | pre
  | cell (b t : Nat)
  | stopp (t : Nat)
  | gap (d : Nat)
  | frame (x t g : Nat)
  | drain (n : Nat)
  deriving DecidableEq, Repr

end Sys2Proof
end

