-- ==== Sys2Proof/Decode.lean ====
section
/-! DEFINITION. Command words and instructions: the decoder, total on every 187-bit word, and after it the encoder. The
opcode map is 30_encoding.md R84, the formats are R81. DESIGN CHOICE, log entry 3: the fields of a format lie in the
order of R81 from bit 8 upwards, the first field lowest. -/

namespace Sys2Proof

/-- Why a command word is not an instruction. -/
inductive DecodeError where
  /-- "Every opcode byte not in rule R84 is reserved" (R85). -/
  | reservedOpcode (opcode : Byte)
  deriving DecidableEq, Repr

/-- `cmd[7:0]` (R80). -/
def opcodeOf (cmd : Command) : Byte := cmd.extractLsb' 0 8

/-- The operand field of `width` bits that begins `place` bits into the bundle. -/
def operandField (cmd : Command) (place width : Nat) : BitVec width := cmd.extractLsb' (8 + place) width

/-- Read a command word (R81, R84, R85). Bits of the bundle that the format does not name are not looked at (DESIGN
CHOICE, log entry 4). -/
def decode (cmd : Command) : Except DecodeError Instr :=
  match (opcodeOf cmd).toNat with
  | 0x00 => .ok (.feed (operandField cmd 0 1) (operandField cmd 1 32))
  | 0x01 => .ok .drst
  | 0x02 => .ok .rdrec
  | 0x03 => .ok .hash
  | 0x10 => .ok (.fwid (operandField cmd 0 8))
  | 0x11 => .ok (.split (operandField cmd 0 64))
  | 0x12 => .ok (.pack (operandField cmd 0 64) (operandField cmd 64 8) (operandField cmd 72 1))
  | 0x13 => .ok (.remap (operandField cmd 0 8) (operandField cmd 8 8) (operandField cmd 16 1))
  | 0x20 => .ok (.config (operandField cmd 0 64) (operandField cmd 64 8) (operandField cmd 72 8)
      (operandField cmd 80 32) (operandField cmd 112 1) (operandField cmd 113 32) (operandField cmd 145 1)
      (operandField cmd 146 32) (operandField cmd 178 1))
  | 0x21 => .ok .next
  | 0x22 => .ok .stop
  | 0x30 => .ok .getorig
  | 0x31 => .ok (.setorig (operandField cmd 0 8))
  | 0x32 => .ok .getvbtn
  | 0x33 => .ok (.setvbtn (operandField cmd 0 8))
  | 0x34 => .ok .getvmax
  | 0x35 => .ok (.setvmax (operandField cmd 0 8))
  | _ => .error (.reservedOpcode (opcodeOf cmd))

/-- The command word of `nbits` bits numbered as spec/opcode_table.json numbers them (the opcode byte in bits 7:0), every
higher bit 0. -/
def commandOfWord (nbits w : Nat) : Command := BitVec.ofNat 187 (w % 2 ^ nbits)

/-- The instruction the decoder reads from a table row's word. -/
def decodeTableWord (nbits w : Nat) : Option Instr :=
  match decode (commandOfWord nbits w) with
  | .ok i => some i
  | .error _ => none

/-- The opcode byte of each command (R84). -/
def opcode : Instr → Byte
  | .feed _ _ => 0x00
  | .drst => 0x01
  | .rdrec => 0x02
  | .hash => 0x03
  | .fwid _ => 0x10
  | .split _ => 0x11
  | .pack _ _ _ => 0x12
  | .remap _ _ _ => 0x13
  | .config _ _ _ _ _ _ _ _ _ => 0x20
  | .next => 0x21
  | .stop => 0x22
  | .getorig => 0x30
  | .setorig _ => 0x31
  | .getvbtn => 0x32
  | .setvbtn _ => 0x33
  | .getvmax => 0x34
  | .setvmax _ => 0x35

/-- The operand bundle of each command (R81): in `a ++ b` the field `a` lies above `b`, so the first field is written
last. -/
def bundle : Instr → BitVec 179
  | .feed level dur => (dur ++ level).setWidth 179
  | .drst => 0
  | .rdrec => 0
  | .hash => 0
  | .fwid v => v.setWidth 179
  | .split data => data.setWidth 179
  | .pack serial button wsel => (wsel ++ button ++ serial).setWidth 179
  | .remap orig dir wsel => (wsel ++ dir ++ orig).setWidth 179
  | .config serial button bits te teP guard guardP rep repP =>
      repP ++ rep ++ guardP ++ guard ++ teP ++ te ++ bits ++ button ++ serial
  | .next => 0
  | .stop => 0
  | .getorig => 0
  | .setorig v => v.setWidth 179
  | .getvbtn => 0
  | .setvbtn v => v.setWidth 179
  | .getvmax => 0
  | .setvmax v => v.setWidth 179

/-- The command word of an instruction: the bundle above the opcode byte, bundle bits of no field 0. -/
def encode (i : Instr) : Command := bundle i ++ opcode i

end Sys2Proof
end

