-- ==== Sys2Proof/Config.lean ====
section
/-! DEFINITION. The implementation parameters of 00_scope.md R6 (configuration, not state: 10_state.md R20), and the
values the spec leaves open, as constants with no body. The default values stand in Machine/Params.lean. -/

namespace Sys2Proof

/-- `PREV_UPDATE` (R6, R165): when the previous-frame word is updated. -/
inductive PrevUpdate where
  /-- At every frame boundary. -/
  | always
  /-- Only at a boundary with exactly MIN_BITS bits. -/
  | fullOnly
  deriving DecidableEq, Repr

/-- The five virtual directions of 41_codec.md R125. -/
inductive Direction where
  | ok | up | down | left | right
  deriving DecidableEq, Repr

/-- The parameters of R6, each under its own name. `remapTable` is `REMAP_TABLE : {1,2,3,4} × {0,1} × [0,255] ->
option [0,255]` of R126; its row `ok` exists in the type only and is never read, because R126 settles direction 0
before the table is asked. -/
structure Config where
  teShort       : Nat
  teLong        : Nat
  teDelta       : Nat
  longTolMult   : Nat
  preambleMult  : Nat
  preambleDelta : Nat
  gapMult       : Nat
  minBits       : Nat
  guardMin      : Nat
  guardMax      : Nat
  guardDefault  : Nat
  sentinels     : List Byte
  vmaxFixed     : Byte
  encCapacity   : Nat
  defaultRepeat : Dur
  prevUpdate    : PrevUpdate
  remapTable    : Direction → Bit → Byte → Option Byte
  /-- `HASH_FN`, over the record's bytes in order from the least significant (R171). -/
  hashFn        : List Byte → Byte

/-- The OPEN parameter `REMAP_TABLE` (R6, R126; 91_not_in_source.md N1): no entry is known, so none can be proved.
Log entry 6. -/
opaque Config.openRemapTable : Direction → Bit → Byte → Option Byte

/-- What a read of `ENC_SEQ` outside its entries gives. 20_memory.md R61 says such a read never happens; the value is
free, fresh for each command. Log entry 7. -/
opaque Config.strayPulse : Nat → Bit × Dur

end Sys2Proof
end

