-- ==== Sys2Proof/Machine/Params.lean ====
section
/-! DEFINITION. The values of the parameters of 00_scope.md R6 that this machine has: the spec's defaults, and for
`REMAP_TABLE`, which is OPEN, the constant with no body. -/

namespace Sys2Proof.Machine

/-- The XOR of a list of bytes, the default `HASH_FN` (R6, R171; log entry 12). -/
def xorBytes (bytes : List Byte) : Byte := bytes.foldl (· ^^^ ·) 0

/-- The R6 table. Log entries 6 and 8 to 13 name the values that do not come from the source. -/
def prn : Config where
  teShort       := 390
  teLong        := 1170
  teDelta       := 300
  longTolMult   := 3
  preambleMult  := 36
  preambleDelta := 36 * 300
  gapMult       := 2
  minBits       := 24
  guardMin      := 15
  guardMax      := 72
  guardDefault  := 30
  sentinels     := [0x30, 0xC0, 0x03, 0x0C]
  vmaxFixed     := 4
  encCapacity   := 50
  defaultRepeat := 10
  prevUpdate    := .always
  remapTable    := Config.openRemapTable
  hashFn        := xorBytes

end Sys2Proof.Machine
end

