-- ==== Sys2Proof/Machine/State.lean ====
section
/-! DEFINITION. The state of the block: the four register groups of 10_state.md, and the host's side of the interface
(70_reset_and_hazards.md R291, R292) as two lists. -/

namespace Sys2Proof.Machine

/-- `DEC_STATE` (R22), typed as the three-valued enumeration the rule allows. -/
inductive DecState where
  | idle | armedHigh | armedLow
  deriving DecidableEq, Repr

/-- The decoder working registers `DEC_STATE`, `DEC_ACC`, `DEC_CNT`, `DEC_PREV`, `DEC_SUM`, `DEC_TLAST` (R22 to R27). -/
structure DecRegs where
  state : DecState
  acc   : Data
  cnt   : Byte
  prev  : Data
  sum   : Dur
  tlast : Dur
  deriving DecidableEq, Repr

/-- The record registers `REC_DATA`, `REC_BITS`, `REC_TE`, `REC_GUARD` (R30). -/
structure RecRegs where
  data  : Data
  bits  : Byte
  te    : Dur
  guard : Byte
  deriving DecidableEq, Repr

/-- One entry of `ENC_SEQ`, and what NEXT returns: a level and a duration (R32). -/
structure Pulse where
  level : Bit
  dur   : Dur
  deriving DecidableEq, Repr

/-- The encoder registers `ENC_SEQ`, `ENC_LEN`, `ENC_CUR`, `ENC_REP`, `ENC_RUN` (R32 to R36). -/
structure EncRegs where
  seq : List Pulse
  len : Byte
  cur : Byte
  rep : Dur
  run : Bit
  deriving DecidableEq, Repr

/-- The button-context registers `CTX_ORIG`, `CTX_VBTN`, `CTX_VMAX` (R37 to R39). -/
structure CtxRegs where
  orig : Byte
  vbtn : Byte
  vmax : Byte
  deriving DecidableEq, Repr

/-- The status of a response (60_exceptions.md R251). Codes 5 and 6 are reserved and never returned, so they have no
constructor (93_implementation_defined.md I31). -/
inductive Status where
  | ok | errCapacity | errMissingTe | errBitCount | errRange | illegal
  deriving DecidableEq, Repr

/-- The response fields after `status`, by the table of 30_encoding.md R82. -/
inductive Payload where
  /-- DRST, CONFIG, STOP, SETORIG, SETVBTN, SETVMAX, and every reserved opcode. -/
  | none
  /-- FEED. -/
  | found (found : Bit)
  /-- RDREC. -/
  | record (data : Data) (bits : Byte) (te : Dur) (guard : Byte)
  /-- HASH. -/
  | hash (hash : Byte)
  /-- FWID. -/
  | width (wsel : Bit)
  /-- SPLIT. -/
  | split (serial : Data) (button : Byte) (wsel : Bit)
  /-- PACK. -/
  | data (data : Data)
  /-- REMAP. -/
  | button (button : Byte)
  /-- NEXT. -/
  | pulse (valid level : Bit) (dur : Dur)
  /-- GETORIG, GETVBTN, GETVMAX. -/
  | value (v : Byte)
  deriving DecidableEq, Repr

/-- One response: `status` first, then the fields of the command (R82). -/
structure Response where
  status  : Status
  payload : Payload
  deriving DecidableEq, Repr

/-- The machine. `dec`, `record`, `enc` and `ctx` are all the registers the spec gives the block (R20). `pending` is what
the host has issued and the block has not yet taken, oldest first (DESIGN CHOICE, log entry 1); `responses` is what the
block has returned, oldest first: the observation of R292, not a register (R40; DESIGN CHOICE, log entry 2). -/
structure State where
  dec       : DecRegs
  record    : RecRegs
  enc       : EncRegs
  ctx       : CtxRegs
  pending   : List Command
  responses : List Response
  deriving DecidableEq, Repr

/-- No step ends in a fault: "The block has no trap mechanism" and "Every error is a value in the `status` field"
(R250). So there is no reason to name, and the type is empty (safe: a fault cannot be claimed away, it cannot exist).
Log entry 16. -/
inductive Fault
  deriving DecidableEq, Repr

/-- Why a command has no meaning in the model. -/
inductive Refusal where
  /-- Raised by an arm of `exec` whose instruction has no meaning yet; safe. No arm raises it. -/
  | notModelled (mnemonic : String)
  deriving DecidableEq, Repr

/-- Every register after power-on reset (R42, R280), no command issued, no response returned. -/
def State.reset : State where
  dec       := ⟨.idle, 0, 0, 0, 0, 0⟩
  record    := ⟨0, 0, 0, BitVec.ofNat 8 prn.guardDefault⟩
  enc       := ⟨List.replicate prn.encCapacity ⟨0, 0⟩, 0, 0, 0, 0⟩
  ctx       := ⟨0, 0, prn.vmaxFixed⟩
  pending   := []
  responses := []

end Sys2Proof.Machine
end

