-- ==== Sys2Proof/Machine/Flags.lean ====
section
/-! DEFINITION. The block has no condition codes; "Its one status flag is `ENC_RUN`" (10_state.md R40). Here are the
writes of that flag (R36) and the one-bit form of a yes/no outcome, which is a response field and not a flag (R40). -/

namespace Sys2Proof.Machine

/-- A yes/no outcome as a response field of width 1. -/
def flagBit (b : Bool) : Bit := if b then 1 else 0

/-- Playback may return pulses: `ENC_RUN = 1` and repeats remain (R200, R202). -/
def EncRegs.playing (e : EncRegs) : Bool := e.rep != 0 && e.run == 1

/-- `ENC_RUN <- 0`: STOP, and a NEXT that finds the sequence exhausted (R36). -/
def EncRegs.clearRun (e : EncRegs) : EncRegs := { e with run := 0 }

end Sys2Proof.Machine
end

