-- ==== Sys2Proof/Machine/Operands.lean ====
section
/-! DEFINITION. Reading operands: the notation of 00_scope.md R8 and the two coded operands, `wsel` (30_encoding.md R81)
and the virtual direction (41_codec.md R125). Every other operand is used exactly as given (R83). -/

namespace Sys2Proof.Machine

/-- `|a - b|` on unsigned values, exact, never wrapping (R8). -/
def absDiff (a b : Nat) : Nat := max a b - min a b

/-- `trunc_32(v) = v mod 2^32` of an exact value (R8). -/
def trunc32 (v : Nat) : Dur := BitVec.ofNat 32 v

/-- `trunc_8(v) = v mod 2^8` of an exact value (R8). -/
def trunc8 (v : Nat) : Byte := BitVec.ofNat 8 v

/-- `trunc_64(v) = v mod 2^64` of an exact value (R8). -/
def trunc64 (v : Nat) : Data := BitVec.ofNat 64 v

/-- `wsel` selects a field width: "`0` means 4 bits and `1` means 8 bits" (R81). -/
def widthOf (wsel : Bit) : Nat := if wsel = 1 then 8 else 4

/-- The virtual direction codes (R125; UNVERIFIED: the spec's own general knowledge, log entry 11). Codes 5 to 255 name
no direction. -/
def directionOf (code : Byte) : Option Direction :=
  match code.toNat with
  | 0 => some .ok
  | 1 => some .up
  | 2 => some .down
  | 3 => some .left
  | 4 => some .right
  | _ => none

end Sys2Proof.Machine
end

