-- ==== Sys2Proof/Machine/Ops.lean ====
section
/-! DEFINITION. The named operations every command shares: taking a command from the host, returning a response, failing
with a status, and the one indexed read of the block. There is no exception entry and no return from one: "every error
is a value in the `status` field" (60_exceptions.md R250), so `State.failWith` is what stands in their place. -/

namespace Sys2Proof.Machine

/-- The code of a status, `status:3` (R251). -/
def Status.code : Status → BitVec 3
  | .ok => 0
  | .errCapacity => 1
  | .errMissingTe => 2
  | .errBitCount => 3
  | .errRange => 4
  | .illegal => 7

/-- `respond(...)` (R10): the command ends and returns this response. No register is touched. -/
def State.respond (s : State) (status : Status) (payload : Payload) : State :=
  { s with responses := s.responses ++ [⟨status, payload⟩] }

/-- A failing command: its status, no other response field, no register changed (R192, R233, R251, R254). -/
def State.failWith (s : State) (status : Status) : State := s.respond status .none

/-- Replace the decoder working registers. -/
def State.withDec (s : State) (d : DecRegs) : State := { s with dec := d }

/-- Replace the record registers, all four at once (R31). -/
def State.withRecord (s : State) (r : RecRegs) : State := { s with record := r }

/-- Replace the encoder registers. -/
def State.withEnc (s : State) (e : EncRegs) : State := { s with enc := e }

/-- Replace the button-context registers. -/
def State.withCtx (s : State) (c : CtxRegs) : State := { s with ctx := c }

/-- The oldest command the host has issued, and the state in which it is taken (R69: in issue order). -/
def State.takeCommand (s : State) : Option (Command × State) :=
  match s.pending with
  | [] => none
  | cmd :: rest => some (cmd, { s with pending := rest })

/-- The host's one move (R291): it issues commands, behind those it has issued before. -/
def State.issue (s : State) (cmds : List Command) : State := { s with pending := s.pending ++ cmds }

/-- A command put where the very next step takes it. -/
def State.placeFirst (s : State) (cmd : Command) : State := { s with pending := cmd :: s.pending }

/-- No command is pending: "No state changes between commands" (R3). DESIGN CHOICE, log entry 5. -/
def State.betweenCommands (s : State) : State := s

/-- A command that does not decode. A reserved opcode "changes no state and returns `status = 7` (ILLEGAL)" (R85). -/
def State.rejectCommand (s : State) : DecodeError → State
  | .reservedOpcode _ => s.failWith .illegal

/-- `ENC_SEQ[ENC_CUR]` (R60, R200). Outside the entries, where R61 says no read ever happens, the value is free: the
opaque constant applied to the number of responses returned so far (log entry 7). -/
def State.pulseAtCursor (s : State) : Pulse :=
  match s.enc.seq[s.enc.cur.toNat]? with
  | some p => p
  | none => ⟨(Config.strayPulse s.responses.length).1, (Config.strayPulse s.responses.length).2⟩

/-- The entries `ENC_SEQ[0 .. n-1]` replaced by a built sequence of length n, the entries above it kept (R196). -/
def writeSeq (old built : List Pulse) : List Pulse := built ++ old.drop built.length

end Sys2Proof.Machine
end

