-- ==== Sys2Proof/Machine/Codec.lean ====
section
/-! DEFINITION. The Button Codec commands of 41_codec.md: FWID, SPLIT, PACK, REMAP. They read no register and write none. -/

namespace Sys2Proof.Machine

/-- The value is one of the four sentinels (R6, R120). -/
def isSentinel (c : Config) (v : Byte) : Bool := c.sentinels.contains v

/-- `fwid(v)` as the width select of R81: 1 (8 bits) for a sentinel, else 0 (4 bits) (R120). -/
def fieldWidth (c : Config) (v : Byte) : Bit := flagBit (isSentinel c v)

/-- `split(data)` (R121): the sentinel test is on the low byte. -/
def splitWord (c : Config) (data : Data) : Payload :=
  let low8 := data.extractLsb' 0 8
  if isSentinel c low8 then .split (data >>> 8) low8 1
  else .split (data >>> 4) ((data.extractLsb' 0 4).setWidth 8) 0

/-- `trunc_64((serial << w) | zext_64(button))` (R111, R122); the button is not masked. -/
def packWord (serial : Data) (button : Byte) (wsel : Bit) : Data := serial <<< widthOf wsel ||| button.setWidth 64

/-- `remap(orig, dir, wsel)` (R126): OK returns the original, an entry of the table is taken, everything else passes
through (R127). -/
def remapButton (c : Config) (orig dir : Byte) (wsel : Bit) : Byte :=
  match directionOf dir with
  | some .ok => orig
  | some d => (c.remapTable d wsel orig).getD orig
  | none => orig

/-- FWID (R120). -/
def execFwid (v : Byte) (s : State) : Host.Outcome State Fault Refusal :=
  .next (s.respond .ok (.width (fieldWidth prn v)))

/-- SPLIT (R121). -/
def execSplit (data : Data) (s : State) : Host.Outcome State Fault Refusal :=
  .next (s.respond .ok (splitWord prn data))

/-- PACK (R122): the width is taken as given. -/
def execPack (serial : Data) (button : Byte) (wsel : Bit) (s : State) : Host.Outcome State Fault Refusal :=
  .next (s.respond .ok (.data (packWord serial button wsel)))

/-- REMAP (R124): the width select is taken as given. -/
def execRemap (orig dir : Byte) (wsel : Bit) (s : State) : Host.Outcome State Fault Refusal :=
  .next (s.respond .ok (.button (remapButton prn orig dir wsel)))

end Sys2Proof.Machine
end

