-- ==== Sys2Proof/Machine/Context.lean ====
section
/-! DEFINITION. The button-context commands of 44_context.md. -/

namespace Sys2Proof.Machine

/-- GETORIG (R230). -/
def execGetorig (s : State) : Host.Outcome State Fault Refusal := .next (s.respond .ok (.value s.ctx.orig))

/-- SETORIG (R231): any value is accepted; 0 clears the context's original. -/
def execSetorig (v : Byte) (s : State) : Host.Outcome State Fault Refusal :=
  .next ((s.withCtx { s.ctx with orig := v }).respond .ok .none)

/-- GETVBTN (R232). -/
def execGetvbtn (s : State) : Host.Outcome State Fault Refusal := .next (s.respond .ok (.value s.ctx.vbtn))

/-- SETVBTN (R233): ERR_RANGE above `CTX_VMAX`, and then nothing is written. -/
def execSetvbtn (v : Byte) (s : State) : Host.Outcome State Fault Refusal :=
  if v.toNat ≤ s.ctx.vmax.toNat then .next ((s.withCtx { s.ctx with vbtn := v }).respond .ok .none)
  else .next (s.failWith .errRange)

/-- GETVMAX (R234). -/
def execGetvmax (s : State) : Host.Outcome State Fault Refusal := .next (s.respond .ok (.value s.ctx.vmax))

/-- SETVMAX (R235): `CTX_VBTN` is left alone. -/
def execSetvmax (v : Byte) (s : State) : Host.Outcome State Fault Refusal :=
  .next ((s.withCtx { s.ctx with vmax := v }).respond .ok .none)

end Sys2Proof.Machine
end

