-- ==== Sys2Proof/Machine/Classifier.lean ====
section
/-! DEFINITION. The timing classifier and the integer laws of 40_classifier.md. Everything is computed exactly on natural
numbers; a width is applied only where a rule says so. -/

namespace Sys2Proof.Machine

/-- `match(obs, nom, tol) = ( |obs - nom| < tol )` (R100). -/
def matchesNominal (obs : Dur) (nom tol : Nat) : Bool := absDiff obs.toNat nom < tol

/-- R101, tight tolerance. -/
def isShort (c : Config) (d : Dur) : Bool := matchesNominal d c.teShort c.teDelta

/-- R101, wide tolerance. -/
def isLong (c : Config) (d : Dur) : Bool := matchesNominal d c.teLong (c.longTolMult * c.teDelta)

/-- R101. -/
def isPreamble (c : Config) (d : Dur) : Bool := matchesNominal d (c.preambleMult * c.teShort) c.preambleDelta

/-- R101: a threshold, not a match, with no upper limit. -/
def isGap (c : Config) (d : Dur) : Bool := c.gapMult * c.teLong ≤ d.toNat

/-- `DEC_SUM <- trunc_32(DEC_SUM + d)` (R104). -/
def addDuration (sum d : Dur) : Dur := trunc32 (sum.toNat + d.toNat)

/-- `DEC_ACC <- trunc_64((DEC_ACC << 1) | b)` (R105). -/
def shiftIn (acc : Data) (b : Bit) : Data := acc <<< 1 ||| b.setWidth 64

/-- `DEC_CNT <- trunc_8(DEC_CNT + 1)` (R106). -/
def countBit (cnt : Byte) : Byte := trunc8 (cnt.toNat + 1)

/-- `te = DEC_SUM div (DEC_CNT * 4 + 1)` (R107); the result fits in 32 bits. -/
def timeUnit (sum : Dur) (cnt : Byte) : Dur := trunc32 (sum.toNat / (cnt.toNat * 4 + 1))

/-- The guard ratio before range correction (R108): nearest, a tie up, the default when `te = 0`. -/
def guardRaw (c : Config) (gap te : Dur) : Nat :=
  if te.toNat = 0 then c.guardDefault else (2 * gap.toNat + te.toNat) / (2 * te.toNat)

/-- Range correction (R109): an out-of-range value is replaced by the default, not saturated. -/
def guardFix (c : Config) (g : Nat) : Nat :=
  if c.guardMin ≤ g ∧ g ≤ c.guardMax then g else c.guardDefault

end Sys2Proof.Machine
end

