-- ==== Sys2Proof/Machine/Decoder.lean ====
section
/-! DEFINITION. The Frame Decoder commands of 42_decoder.md: FEED, DRST, HASH, RDREC. FEED is a function of the decoder
working registers and the record registers alone. -/

namespace Sys2Proof.Machine

/-- What a FEED leaves: the decoder working registers, the record, and whether a record was finalized. -/
structure FeedResult where
  dec    : DecRegs
  record : RecRegs
  found  : Bool
  deriving DecidableEq, Repr

/-- `DEC_ACC <- 0; DEC_CNT <- 0; DEC_SUM <- 0; DEC_STATE <- ArmedHigh` (R152, R166). -/
def DecRegs.rearm (d : DecRegs) : DecRegs := { d with state := .armedHigh, acc := 0, cnt := 0, sum := 0 }

/-- A return to Idle changes no other register (R155, R156, R159). -/
def DecRegs.toIdle (d : DecRegs) : DecRegs := { d with state := .idle }

/-- A classified cell (R158): append the bit, count it, add the low duration, wait for the next high. -/
def DecRegs.appendBit (d : DecRegs) (b : Bit) (dur : Dur) : DecRegs :=
  { d with state := .armedHigh, acc := shiftIn d.acc b, cnt := countBit d.cnt, sum := addDuration d.sum dur }

/-- Repeat validation (R161), on the values from before the command. -/
def DecRegs.validates (c : Config) (d : DecRegs) : Bool :=
  decide (d.cnt.toNat = c.minBits) && decide (d.acc = d.prev) && decide (d.prev ≠ 0)

/-- The record a finalize writes (R162 to R164). -/
def finalizedRecord (c : Config) (d : DecRegs) (dur : Dur) : RecRegs where
  data  := d.acc
  bits  := d.cnt
  te    := timeUnit d.sum d.cnt
  guard := trunc8 (guardFix c (guardRaw c dur (timeUnit d.sum d.cnt)))

/-- The previous-frame word after a boundary (R165). -/
def DecRegs.prevAfterBoundary (c : Config) (d : DecRegs) : Data :=
  if c.prevUpdate = .always ∨ d.cnt.toNat = c.minBits then d.acc else d.prev

/-- A frame boundary (R160): validation, perhaps a finalize, the previous-frame update, the reset of the
accumulators. -/
def frameBoundary (c : Config) (dur : Dur) (d : DecRegs) (r : RecRegs) : FeedResult where
  dec    := { d.rearm with prev := d.prevAfterBoundary c }
  record := if d.validates c then finalizedRecord c d dur else r
  found  := d.validates c

/-- State Idle (R152, R153). -/
def feedIdle (c : Config) (level : Bit) (dur : Dur) (d : DecRegs) (r : RecRegs) : FeedResult :=
  if level = 0 ∧ isPreamble c dur then ⟨d.rearm, r, false⟩ else ⟨d, r, false⟩

/-- State ArmedHigh (R154, R155). -/
def feedArmedHigh (level : Bit) (dur : Dur) (d : DecRegs) (r : RecRegs) : FeedResult :=
  if level = 1 then ⟨{ d with state := .armedLow, tlast := dur, sum := addDuration d.sum dur }, r, false⟩
  else ⟨d.toIdle, r, false⟩

/-- State ArmedLow (R156 to R160): the level first, then the boundary, then bit 0, then bit 1 (R255). -/
def feedArmedLow (c : Config) (level : Bit) (dur : Dur) (d : DecRegs) (r : RecRegs) : FeedResult :=
  if level = 1 then ⟨d.toIdle, r, false⟩
  else if isGap c dur then frameBoundary c dur d r
  else if isShort c d.tlast ∧ isLong c dur then ⟨d.appendBit 0 dur, r, false⟩
  else if isLong c d.tlast ∧ isShort c dur then ⟨d.appendBit 1 dur, r, false⟩
  else ⟨d.toIdle, r, false⟩

/-- The frame state machine (R150). -/
def feedRegs (c : Config) (level : Bit) (dur : Dur) (d : DecRegs) (r : RecRegs) : FeedResult :=
  match d.state with
  | .idle => feedIdle c level dur d r
  | .armedHigh => feedArmedHigh level dur d r
  | .armedLow => feedArmedLow c level dur d r

/-- FEED on the whole state: the two groups it may write, and its response. -/
def State.feed (c : Config) (level : Bit) (dur : Dur) (s : State) : State :=
  let f := feedRegs c level dur s.dec s.record
  ((s.withDec f.dec).withRecord f.record).respond .ok (.found (flagBit f.found))

/-- `nbytes = min(8, (REC_BITS + 7) div 8)` (R171). -/
def hashLength (bits : Byte) : Nat := min 8 ((bits.toNat + 7) / 8)

/-- Bytes `REC_DATA[8k+7 : 8k]` for `k = 0 .. nbytes-1` (R65, R171). -/
def recordBytes (r : RecRegs) : List Byte := (List.range (hashLength r.bits)).map fun k => r.data.extractLsb' (8 * k) 8

/-- FEED (R150). -/
def execFeed (level : Bit) (dur : Dur) (s : State) : Host.Outcome State Fault Refusal :=
  .next (s.feed prn level dur)

/-- DRST (R170): every decoder working register, and nothing else. -/
def execDrst (s : State) : Host.Outcome State Fault Refusal :=
  .next ((s.withDec ⟨.idle, 0, 0, 0, 0, 0⟩).respond .ok .none)

/-- RDREC (R172). -/
def execRdrec (s : State) : Host.Outcome State Fault Refusal :=
  .next (s.respond .ok (.record s.record.data s.record.bits s.record.te s.record.guard))

/-- HASH (R171). -/
def execHash (s : State) : Host.Outcome State Fault Refusal :=
  .next (s.respond .ok (.hash (prn.hashFn (recordBytes s.record))))

end Sys2Proof.Machine
end

