-- ==== Sys2Proof/Machine/Encoder.lean ====
section
/-! DEFINITION. The Frame Encoder commands of 43_encoder.md: CONFIG, NEXT, STOP. -/

namespace Sys2Proof.Machine

/-- The failure CONFIG reports, the first that holds in the order of R191 and R255. -/
def configFailure (c : Config) (bits : Byte) (teP : Bit) : Option Status :=
  if teP = 0 then some .errMissingTe
  else if bits.toNat ≠ c.minBits then some .errBitCount
  else if c.encCapacity < 2 * bits.toNat + 2 then some .errCapacity
  else none

/-- First use (R195): an unset `CTX_ORIG` takes the `button` operand. -/
def originalButton (ctx : CtxRegs) (button : Byte) : Byte := if ctx.orig = 0 then button else ctx.orig

/-- `eff` (R195): the original, remapped through `CTX_VBTN` with the original's field width. -/
def effectiveButton (c : Config) (ctx : CtxRegs) (button : Byte) : Byte :=
  let o := originalButton ctx button
  remapButton c o ctx.vbtn (fieldWidth c o)

/-- `data` (R195): packed with the field width of the effective button. -/
def configWord (c : Config) (ctx : CtxRegs) (serial : Data) (button : Byte) : Data :=
  let eff := effectiveButton c ctx button
  packWord serial eff (fieldWidth c eff)

/-- The guard ratio (R194). -/
def configGuard (c : Config) (guard : Dur) (guardP : Bit) : Nat :=
  if guardP = 1 then guardFix c guard.toNat else c.guardDefault

/-- The repeat count (R194). -/
def configRepeat (c : Config) (rep : Dur) (repP : Bit) : Dur := if repP = 1 then rep else c.defaultRepeat

/-- `trunc_32(3 * te)`, a long pulse (R110, R193). -/
def longPulse (te : Dur) : Dur := trunc32 (3 * te.toNat)

/-- One bit cell (R196): "bit 1 emits (high, 3×te) then (low, te); bit 0 emits (high, te) then (low, 3×te)". -/
def bitCell (te : Dur) (b : Bool) : List Pulse :=
  if b then [⟨1, longPulse te⟩, ⟨0, te⟩] else [⟨1, te⟩, ⟨0, longPulse te⟩]

/-- The bit cells of `data[bits-1:0]`, most significant first (R9, R196). -/
def bitCells (bits : Nat) (data : Data) (te : Dur) : List Pulse :=
  (List.range bits).flatMap fun j => bitCell te (data.getLsbD (bits - 1 - j))

/-- The whole pass (R196): the bit cells, the stop pulse, the guard gap `trunc_32(te * g)` (R110). -/
def buildSequence (bits : Nat) (data : Data) (te : Dur) (g : Nat) : List Pulse :=
  bitCells bits data te ++ [⟨1, te⟩, ⟨0, trunc32 (te.toNat * g)⟩]

/-- The encoder registers a successful CONFIG leaves (R196 to R198). -/
def EncRegs.configured (e : EncRegs) (bits : Nat) (built : List Pulse) (r : Dur) : EncRegs where
  seq := writeSeq e.seq built
  len := trunc8 (2 * bits + 2)
  cur := 0
  rep := r
  run := 1

/-- CONFIG on the whole state (R190): a failure writes nothing (R192); a success writes the context (R195, R199) and
the encoder registers. -/
def State.configure (c : Config) (serial : Data) (button bits : Byte) (te : Dur) (teP : Bit) (guard : Dur) (guardP : Bit)
    (rep : Dur) (repP : Bit) (s : State) : State :=
  match configFailure c bits teP with
  | some status => s.failWith status
  | none =>
    let data := configWord c s.ctx serial button
    let built := buildSequence bits.toNat data te (configGuard c guard guardP)
    ((s.withCtx ⟨originalButton s.ctx button, s.ctx.vbtn, c.vmaxFixed⟩).withEnc
      (s.enc.configured bits.toNat built (configRepeat c rep repP))).respond .ok .none

/-- The encoder registers after a pulse is returned (R200, R201): on the last entry the cursor goes back to 0 and one
repeat is used up. -/
def EncRegs.advance (e : EncRegs) : EncRegs :=
  if e.cur.toNat + 1 = e.len.toNat then { e with cur := 0, rep := e.rep - 1 }
  else { e with cur := e.cur + 1 }

/-- NEXT on the whole state (R200): finished (R202), or the pulse at the cursor. -/
def State.nextPulse (s : State) : State :=
  if s.enc.playing then
    let p := s.pulseAtCursor
    (s.withEnc s.enc.advance).respond .ok (.pulse 1 p.level p.dur)
  else (s.withEnc s.enc.clearRun).respond .ok (.pulse 0 0 0)

/-- CONFIG (R190). -/
def execConfig (serial : Data) (button bits : Byte) (te : Dur) (teP : Bit) (guard : Dur) (guardP : Bit) (rep : Dur)
    (repP : Bit) (s : State) : Host.Outcome State Fault Refusal :=
  .next (s.configure prn serial button bits te teP guard guardP rep repP)

/-- NEXT (R200). -/
def execNext (s : State) : Host.Outcome State Fault Refusal := .next s.nextPulse

/-- STOP (R203). -/
def execStop (s : State) : Host.Outcome State Fault Refusal :=
  .next ((s.withEnc s.enc.clearRun).respond .ok .none)

end Sys2Proof.Machine
end

