-- ==== Sys2Proof/Machine/Dispatch.lean ====
section
/-! DEFINITION. One arm per command: each calls its meaning. -/

namespace Sys2Proof.Machine

def exec (i : Instr) (s : State) : Host.Outcome State Fault Refusal :=
  match i with
  -- Frame Decoder (42_decoder.md)
  | .feed level dur => Sys2Proof.Machine.execFeed level dur s
  | .drst => Sys2Proof.Machine.execDrst s
  | .rdrec => Sys2Proof.Machine.execRdrec s
  | .hash => Sys2Proof.Machine.execHash s
  -- Button Codec (41_codec.md)
  | .fwid v => Sys2Proof.Machine.execFwid v s
  | .split data => Sys2Proof.Machine.execSplit data s
  | .pack serial button wsel => Sys2Proof.Machine.execPack serial button wsel s
  | .remap orig dir wsel => Sys2Proof.Machine.execRemap orig dir wsel s
  -- Frame Encoder (43_encoder.md)
  | .config serial button bits te teP guard guardP rep repP => Sys2Proof.Machine.execConfig serial button bits te teP guard guardP rep repP s
  | .next => Sys2Proof.Machine.execNext s
  | .stop => Sys2Proof.Machine.execStop s
  -- Button context (44_context.md)
  | .getorig => Sys2Proof.Machine.execGetorig s
  | .setorig v => Sys2Proof.Machine.execSetorig v s
  | .getvbtn => Sys2Proof.Machine.execGetvbtn s
  | .setvbtn v => Sys2Proof.Machine.execSetvbtn v s
  | .getvmax => Sys2Proof.Machine.execGetvmax s
  | .setvmax v => Sys2Proof.Machine.execSetvmax v s

end Sys2Proof.Machine
end

