-- ==== Sys2Proof/Machine/Step.lean ====
section
/-! DEFINITION. One step: the oldest pending command, decoded and performed whole (20_memory.md R67, R69). -/

namespace Sys2Proof.Machine

/-- Take the oldest pending command and perform it; a command that does not decode is answered as R85 says; with no
command pending nothing changes (R3). -/
def step (s : State) : Host.Outcome State Fault Refusal :=
  match s.takeCommand with
  | none => .next s.betweenCommands
  | some (cmd, s') =>
    match decode cmd with
    | .ok i => exec i s'
    | .error e => .next (s'.rejectCommand e)

/-- The table's word issued as the command the very next step takes (log entry 1). -/
def State.withFetchWord (s : State) (nbits w : Nat) : State := s.placeFirst (commandOfWord nbits w)

end Sys2Proof.Machine
end

