-- ==== Sys2Proof/WellFormed.lean ====
section
/-! DEFINITION. What is well-formed. An `Instr` needs no check: "No field can hold a value outside its range"
(30_encoding.md R83), and its fields are bit vectors of their widths. Checked here are the assembler lines, whose
operands are plain numbers, and a configuration, whose values must fit the registers that hold them. -/

namespace Sys2Proof

/-- A number fits a field of `w` bits (R8: `name:N` "holds values 0 to 2^N - 1"). -/
def fitsField (w n : Nat) : Bool := n < 2 ^ w

/-- An operand that may be left out fits when it is left out or its value fits. -/
def fitsOptional (w : Nat) : Option Nat → Bool
  | none => true
  | some n => fitsField w n

/-- Every operand of the line fits its field (R81), and every operand of the commands it expands to fits too (R87:
`3*t` and `t*g` are 32-bit durations). -/
def AsmLine.wellFormed : AsmLine → Bool
  | .feed level dur => fitsField 1 level && fitsField 32 dur
  | .drst => true
  | .rdrec => true
  | .hash => true
  | .fwid v => fitsField 8 v
  | .split data => fitsField 64 data
  | .pack serial button wsel => fitsField 64 serial && fitsField 8 button && fitsField 1 wsel
  | .remap orig dir wsel => fitsField 8 orig && fitsField 8 dir && fitsField 1 wsel
  | .config serial button bits te teP guard guardP rep repP =>
      fitsField 64 serial && fitsField 8 button && fitsField 8 bits && fitsField 32 te && fitsField 1 teP
        && fitsField 32 guard && fitsField 1 guardP && fitsField 32 rep && fitsField 1 repP
  | .configNamed serial button bits te guard rep =>
      fitsField 64 serial && fitsField 8 button && fitsField 8 bits && fitsOptional 32 te && fitsOptional 32 guard
        && fitsOptional 32 rep
  | .next => true
  | .stop => true
  | .getorig => true
  | .setorig v => fitsField 8 v
  | .getvbtn => true
  | .setvbtn v => fitsField 8 v
  | .getvmax => true
  | .setvmax v => fitsField 8 v
  | .pre => true
  | .cell b t => fitsField 1 b && fitsField 32 (3 * t)
  | .stopp t => fitsField 32 t
  | .gap d => fitsField 32 d
  | .frame _ t g => fitsField 32 (3 * t) && fitsField 32 (t * g)
  | .drain _ => true

/-- A configuration fits the registers: MIN_BITS is at most the data width of 64 (R6 "up to 64 bits"); the guard range
holds its default and fits `REC_GUARD:8` (R109, R164); there are four sentinels (R6); ENC_CAPACITY "must not exceed
255" (92_eei_decisions.md D23). -/
def Config.wellFormed (c : Config) : Bool :=
  decide (c.minBits ≤ 64)
    && decide (c.guardMin ≤ c.guardDefault) && decide (c.guardDefault ≤ c.guardMax) && decide (c.guardMax < 256)
    && decide (c.sentinels.length = 4) && decide (c.encCapacity ≤ 255)

end Sys2Proof
end

