-- ==== Sys2Proof/Machine/Assembler.lean ====
section
/-! DEFINITION. The assembler syntax of 30_encoding.md R86 and the pseudo-instructions of R87: text to a line, and a line
to the commands it stands for, "before the block sees anything". Nothing here is part of a step. -/

namespace Sys2Proof.Machine

/-- One operand as written: a number, or `name=number` (R86). -/
inductive AsmArg where
  | plain (n : Nat)
  | named (key : List Char) (n : Nat)
  deriving DecidableEq, Repr

/-- Everything before the first `;` (R86: "`;` starts a comment"). -/
def stripComment (cs : List Char) : List Char := cs.takeWhile (· != ';')

/-- A character that only separates. -/
def isBlank (ch : Char) : Bool := ch == ' ' || ch == '\t'

/-- The text without blanks at its two ends. -/
def trimBlanks (cs : List Char) : List Char := ((cs.dropWhile isBlank).reverse.dropWhile isBlank).reverse

/-- The pieces between commas. -/
def splitCommas : List Char → List (List Char)
  | [] => [[]]
  | ch :: rest =>
    match splitCommas rest with
    | [] => [[ch]]
    | piece :: pieces => if ch == ',' then [] :: piece :: pieces else (ch :: piece) :: pieces

/-- The value of a digit in base 16, of either case. -/
def digitValue (ch : Char) : Option Nat :=
  let n := ch.toNat
  if 48 ≤ n ∧ n ≤ 57 then some (n - 48)
  else if 65 ≤ n ∧ n ≤ 70 then some (n - 55)
  else if 97 ≤ n ∧ n ≤ 102 then some (n - 87)
  else none

/-- The number a list of digits writes in a base, most significant first; none if a character is no digit of it. -/
def digitsValue (base : Nat) (cs : List Char) : Option Nat :=
  cs.foldl (fun acc ch => acc.bind fun a => (digitValue ch).bind fun d => if d < base then some (base * a + d) else none)
    (some 0)

/-- "Numbers are decimal, or hexadecimal with `0x`" (R86). -/
def parseNumber (cs : List Char) : Option Nat :=
  match cs with
  | [] => none
  | '0' :: 'x' :: [] => none
  | '0' :: 'x' :: digits => digitsValue 16 digits
  | digits => digitsValue 10 digits

/-- One operand, its blanks trimmed. -/
def parseArg (cs : List Char) : Option AsmArg :=
  let body := trimBlanks cs
  match body.dropWhile (· != '=') with
  | [] => (parseNumber body).map .plain
  | _ :: value => (parseNumber (trimBlanks value)).map (.named (trimBlanks (body.takeWhile (· != '='))))

/-- The operands of a line; no text is no operand. -/
def parseArgs (cs : List Char) : Option (List AsmArg) :=
  match trimBlanks cs with
  | [] => some []
  | body => (splitCommas body).mapM parseArg

/-- The named operand `key` if it is the next one, and what follows it; otherwise it was left out (R86). -/
def takeNamed (key : List Char) (args : List AsmArg) : Option Nat × List AsmArg :=
  match args with
  | .named k n :: rest => if k = key then (some n, rest) else (none, args)
  | _ => (none, args)

/-- `CONFIG serial=S, button=B, bits=N, te=T, guard=G, rep=R` (R86), of which the last three may be left out; in this
order (DEDUCED, log entry 17). -/
def parseConfigNamed (args : List AsmArg) : Option AsmLine :=
  let serial := takeNamed ['s', 'e', 'r', 'i', 'a', 'l'] args
  let button := takeNamed ['b', 'u', 't', 't', 'o', 'n'] serial.2
  let bits := takeNamed ['b', 'i', 't', 's'] button.2
  let te := takeNamed ['t', 'e'] bits.2
  let guard := takeNamed ['g', 'u', 'a', 'r', 'd'] te.2
  let rep := takeNamed ['r', 'e', 'p'] guard.2
  match serial.1, button.1, bits.1, rep.2 with
  | some s, some b, some n, [] => some (.configNamed s b n te.1 guard.1 rep.1)
  | _, _, _, _ => none

/-- A mnemonic and its operands, "in the field order of rule R81" (R86); the pseudo-instructions of R87 after them. -/
def parseOperation (mnemonic : String) (args : List AsmArg) : Option AsmLine :=
  match args with
  | [] =>
    if mnemonic = "DRST" then some .drst
    else if mnemonic = "RDREC" then some .rdrec
    else if mnemonic = "HASH" then some .hash
    else if mnemonic = "NEXT" then some .next
    else if mnemonic = "STOP" then some .stop
    else if mnemonic = "GETORIG" then some .getorig
    else if mnemonic = "GETVBTN" then some .getvbtn
    else if mnemonic = "GETVMAX" then some .getvmax
    else if mnemonic = "PRE" then some .pre
    else none
  | [.plain a] =>
    if mnemonic = "FWID" then some (.fwid a)
    else if mnemonic = "SPLIT" then some (.split a)
    else if mnemonic = "SETORIG" then some (.setorig a)
    else if mnemonic = "SETVBTN" then some (.setvbtn a)
    else if mnemonic = "SETVMAX" then some (.setvmax a)
    else if mnemonic = "STOPP" then some (.stopp a)
    else if mnemonic = "GAP" then some (.gap a)
    else if mnemonic = "DRAIN" then some (.drain a)
    else none
  | [.plain a, .plain b] =>
    if mnemonic = "FEED" then some (.feed a b)
    else if mnemonic = "CELL" then some (.cell a b)
    else none
  | [.plain a, .plain b, .plain e] =>
    if mnemonic = "PACK" then some (.pack a b e)
    else if mnemonic = "REMAP" then some (.remap a b e)
    else if mnemonic = "FRAME" then some (.frame a b e)
    else none
  | [.plain serial, .plain button, .plain bits, .plain te, .plain teP, .plain guard, .plain guardP, .plain rep, .plain repP] =>
    if mnemonic = "CONFIG" then some (.config serial button bits te teP guard guardP rep repP) else none
  | args => if mnemonic = "CONFIG" then parseConfigNamed args else none

/-- One line of text. `some none` is a line with no command on it (blank, or a comment alone); `none` is a line that R86
and R87 do not allow, or whose operands do not fit their fields (R81). -/
def parseLine (text : List Char) : Option (Option AsmLine) :=
  let body := trimBlanks (stripComment text)
  match body with
  | [] => some none
  | _ =>
    let mnemonic := String.ofList (body.takeWhile fun ch => !isBlank ch)
    match parseArgs (body.dropWhile fun ch => !isBlank ch) with
    | none => none
    | some args =>
      match parseOperation mnemonic args with
      | none => none
      | some line => if line.wellFormed then some (some line) else none

/-- An operand that may be left out: its presence flag and its value field, both 0 when it is left out (R86). -/
def optionalOperand : Option Nat → Bit × Dur
  | none => (0, 0)
  | some n => (1, BitVec.ofNat 32 n)

/-- `FEED level, d`. -/
def feedOf (level d : Nat) : Instr := .feed (BitVec.ofNat 1 level) (BitVec.ofNat 32 d)

/-- `CELL 1, t` is `FEED 1, 3*t` then `FEED 0, t`; `CELL 0, t` is `FEED 1, t` then `FEED 0, 3*t` (R87). -/
def cellFeeds (b : Bool) (t : Nat) : List Instr :=
  if b then [feedOf 1 (3 * t), feedOf 0 t] else [feedOf 1 t, feedOf 0 (3 * t)]

/-- The commands a line expands into, in the order they are issued (R86, R87). -/
def expandLine : AsmLine → List Instr
  | .feed level dur => [feedOf level dur]
  | .drst => [.drst]
  | .rdrec => [.rdrec]
  | .hash => [.hash]
  | .fwid v => [.fwid (BitVec.ofNat 8 v)]
  | .split data => [.split (BitVec.ofNat 64 data)]
  | .pack serial button wsel => [.pack (BitVec.ofNat 64 serial) (BitVec.ofNat 8 button) (BitVec.ofNat 1 wsel)]
  | .remap orig dir wsel => [.remap (BitVec.ofNat 8 orig) (BitVec.ofNat 8 dir) (BitVec.ofNat 1 wsel)]
  | .config serial button bits te teP guard guardP rep repP =>
      [.config (BitVec.ofNat 64 serial) (BitVec.ofNat 8 button) (BitVec.ofNat 8 bits) (BitVec.ofNat 32 te)
        (BitVec.ofNat 1 teP) (BitVec.ofNat 32 guard) (BitVec.ofNat 1 guardP) (BitVec.ofNat 32 rep) (BitVec.ofNat 1 repP)]
  | .configNamed serial button bits te guard rep =>
      [.config (BitVec.ofNat 64 serial) (BitVec.ofNat 8 button) (BitVec.ofNat 8 bits) (optionalOperand te).2
        (optionalOperand te).1 (optionalOperand guard).2 (optionalOperand guard).1 (optionalOperand rep).2
        (optionalOperand rep).1]
  | .next => [.next]
  | .stop => [.stop]
  | .getorig => [.getorig]
  | .setorig v => [.setorig (BitVec.ofNat 8 v)]
  | .getvbtn => [.getvbtn]
  | .setvbtn v => [.setvbtn (BitVec.ofNat 8 v)]
  | .getvmax => [.getvmax]
  | .setvmax v => [.setvmax (BitVec.ofNat 8 v)]
  | .pre => [feedOf 0 (prn.preambleMult * prn.teShort)]
  | .cell b t => cellFeeds (b == 1) t
  | .stopp t => [feedOf 1 t]
  | .gap d => [feedOf 0 d]
  | .frame x t g =>
      (List.range 24).flatMap (fun j => cellFeeds (x.testBit (23 - j)) t) ++ [feedOf 1 t, feedOf 0 (t * g)]
  | .drain n => List.replicate n .next

/-- The commands of one line of text. -/
def assembleLine (text : List Char) : Option (List Instr) :=
  match parseLine text with
  | none => none
  | some none => some []
  | some (some line) => some (expandLine line)

end Sys2Proof.Machine
end

