-- ==== Sys2Proof/Safety.lean ====
section
/-! DEFINITION. Runs, and what holds of every state a run reaches. A run is a finite sequence of commands from a start
state, observed by its responses and its final registers (70_reset_and_hazards.md R292). -/

namespace Sys2Proof.Machine

/-- Perform the commands in order, each seeing every write of those before it (R69); a fault or a refusal would end the
run. -/
def execAll : List Instr → State → Host.Outcome State Fault Refusal
  | [], s => .next s
  | i :: rest, s =>
    match exec i s with
    | .next s' => execAll rest s'
    | .fault r => .fault r
    | .refused r => .refused r

/-- The commands that are FEED (R84), for claims that count them. -/
def isFeed : Instr → Bool
  | .feed _ _ => true
  | _ => false

/-- A CONFIG that meets no failing condition of R191 under the R6 values; false of every other command. -/
def isGoodConfig : Instr → Bool
  | .config _ _ bits _ teP _ _ _ _ => bits == 24 && teP == 1
  | _ => false

/-- The record of a state a run reaches: the guard ratio lies in range (R31, R164), and the bit count is 0 before any
finalize and MIN_BITS after one, when the data word is not zero (R161, R162). -/
def RecRegs.Legal (r : RecRegs) : Prop :=
  15 ≤ r.guard.toNat ∧ r.guard.toNat ≤ 72 ∧ (r.bits = 0 ∨ (r.bits = 24 ∧ r.data ≠ 0))

/-- The encoder of a state a run reaches: `ENC_SEQ` has `ENC_CAPACITY` entries (R32), `ENC_LEN` is 0 before any CONFIG and
50 after one (R197), and the cursor stays below the length whenever NEXT may read (R61, R200). -/
def EncRegs.Legal (e : EncRegs) : Prop :=
  e.seq.length = 50 ∧ ((e.len = 0 ∧ e.cur = 0 ∧ e.run = 0) ∨ (e.len = 50 ∧ e.cur.toNat < 50))

/-- The invariant of the machine. -/
def State.Legal (s : State) : Prop := s.record.Legal ∧ s.enc.Legal

end Sys2Proof.Machine
end

