-- ==== Sys2Proof/Certificates/Slice0/Obligations.lean ====
section
/-! DEFINITION. The statements for the provers. Each docstring names the rule of spec/ it formalises; a statement that
rests on a choice of the model says so and names the log entry. Values are written out from the rules, not by the
model's own functions, wherever the rules give them. -/

open Sys2Proof Sys2Proof.Machine

namespace Sys2Proof.Claims

/-- The four sentinels, written out (R6, R120). -/
abbrev IsSentinel (b : Byte) : Prop := b = 0x30 ∨ b = 0xC0 ∨ b = 0x03 ∨ b = 0x0C

/-- The short window of R7. -/
abbrev InShort (d : Dur) : Prop := 91 ≤ d.toNat ∧ d.toNat ≤ 689

/-- The long window of R7. -/
abbrev InLong (d : Dur) : Prop := 271 ≤ d.toNat ∧ d.toNat ≤ 2069

/-- `s` after one more response and nothing else. -/
abbrev answered (s : State) (status : Status) (payload : Payload) : State :=
  { s with responses := s.responses ++ [⟨status, payload⟩] }

/-- The guard ratio R164 gives for a gap and a time unit, under the R6 values (R108, R109). -/
abbrev guardFor (gap te : Nat) : Nat :=
  let raw := if te = 0 then 30 else (2 * gap + te) / (2 * te)
  if 15 ≤ raw ∧ raw ≤ 72 then raw else 30

/-- The opcode bytes R85 reserves, in its five ranges. -/
abbrev IsReserved (op : Byte) : Prop :=
  (0x04 ≤ op.toNat ∧ op.toNat ≤ 0x0F) ∨ (0x14 ≤ op.toNat ∧ op.toNat ≤ 0x1F) ∨ (0x23 ≤ op.toNat ∧ op.toNat ≤ 0x2F)
    ∨ (0x36 ≤ op.toNat ∧ op.toNat ≤ 0x3F) ∨ 0x40 ≤ op.toNat

/-- The response fields of each command (R82): `none` where the table says none, and for a failing command. -/
def FieldsOf (i : Instr) (p : Payload) : Prop :=
  match i with
  | .feed _ _ => ∃ f, p = .found f
  | .rdrec => ∃ d b t g, p = .record d b t g
  | .hash => ∃ h, p = .hash h
  | .fwid _ => ∃ w, p = .width w
  | .split _ => ∃ s b w, p = .split s b w
  | .pack _ _ _ => ∃ d, p = .data d
  | .remap _ _ _ => ∃ b, p = .button b
  | .next => ∃ v l d, p = .pulse v l d
  | .getorig => ∃ v, p = .value v
  | .getvbtn => ∃ v, p = .value v
  | .getvmax => ∃ v, p = .value v
  | .drst => p = .none
  | .config _ _ _ _ _ _ _ _ _ => p = .none
  | .stop => p = .none
  | .setorig _ => p = .none
  | .setvbtn _ => p = .none
  | .setvmax _ => p = .none

/-- The status each defined command returns in a state, by the causes of R251 and the order of R191. -/
def statusOf (i : Instr) (s : State) : Status :=
  match i with
  | .config _ _ bits _ teP _ _ _ _ => if teP = 0 then .errMissingTe else if bits ≠ 24 then .errBitCount else .ok
  | .setvbtn v => if s.ctx.vmax.toNat < v.toNat then .errRange else .ok
  | _ => .ok

/-- The nine commands R68 lists as having no side effects. -/
def IsPureRead (i : Instr) : Prop :=
  i = .rdrec ∨ i = .hash ∨ i = .getorig ∨ i = .getvbtn ∨ i = .getvmax ∨ (∃ v, i = .fwid v) ∨ (∃ d, i = .split d)
    ∨ (∃ s b w, i = .pack s b w) ∨ ∃ o d w, i = .remap o d w

/-- The pulses of one pass as the FEED commands a receiver of them issues (R11, R87). -/
abbrev feedsOf (pulses : List Pulse) : List Instr := pulses.map fun p => .feed p.level p.dur

end Sys2Proof.Claims

open Sys2Proof.Claims

/-! ## Reset, classifier, integer laws -/

/-- R42: every register after power-on reset. -/
def Obligations.ResetRegisterValues : Prop :=
  State.reset.dec = ⟨.idle, 0, 0, 0, 0, 0⟩
    ∧ State.reset.record = ⟨0, 0, 0, 30⟩
    ∧ State.reset.enc.seq.length = 50 ∧ (∀ p ∈ State.reset.enc.seq, p = ⟨0, 0⟩)
    ∧ State.reset.enc.len = 0 ∧ State.reset.enc.cur = 0 ∧ State.reset.enc.rep = 0 ∧ State.reset.enc.run = 0
    ∧ State.reset.ctx = ⟨0, 0, 4⟩

/-- R100: the match predicate is a strict bound on the exact absolute difference. -/
def Obligations.MatchIsStrictDistance : Prop :=
  ∀ (obs : Dur) (nom tol : Nat), matchesNominal obs nom tol = true ↔ ((obs.toNat : Int) - nom).natAbs < tol

/-- R7, which the spec derives from R101 and the R6 values: the four windows, and where the short and the long one
overlap. -/
def Obligations.ClassifierWindows : Prop :=
  ∀ d : Dur,
    (isShort prn d = true ↔ 91 ≤ d.toNat ∧ d.toNat ≤ 689)
      ∧ (isLong prn d = true ↔ 271 ≤ d.toNat ∧ d.toNat ≤ 2069)
      ∧ (isPreamble prn d = true ↔ 3241 ≤ d.toNat ∧ d.toNat ≤ 24839)
      ∧ (isGap prn d = true ↔ 2340 ≤ d.toNat)
      ∧ (isShort prn d = true ∧ isLong prn d = true ↔ 271 ≤ d.toNat ∧ d.toNat ≤ 689)

/-- R108, for every configuration: the default when `te = 0`, else `gap / te` rounded to the nearest integer, a tie
rounding up (the quotient g is the one with `(g - 1/2) te ≤ gap < (g + 1/2) te`). -/
def Obligations.GuardEstimateIsNearest : Prop :=
  ∀ (c : Config) (gap te : Dur),
    (te.toNat = 0 → guardRaw c gap te = c.guardDefault)
      ∧ (te.toNat ≠ 0 →
          guardRaw c gap te = (2 * gap.toNat + te.toNat) / (2 * te.toNat)
            ∧ 2 * guardRaw c gap te * te.toNat ≤ 2 * gap.toNat + te.toNat
            ∧ 2 * gap.toNat + te.toNat < 2 * (guardRaw c gap te + 1) * te.toNat)

/-- R109: a value in [15, 72] is kept and any other is replaced by 30. -/
def Obligations.GuardCorrectionReplaces : Prop :=
  ∀ g : Nat, (15 ≤ g ∧ g ≤ 72 → guardFix prn g = g) ∧ (g < 15 ∨ 72 < g → guardFix prn g = 30) ∧ guardFix prn g < 256

/-! ## FEED -/

/-- R152: the preamble in Idle. -/
def Obligations.FeedIdlePreamble : Prop :=
  ∀ (dur : Dur) (s : State), s.dec.state = .idle → 3241 ≤ dur.toNat → dur.toNat ≤ 24839 →
    exec (.feed 0 dur) s
      = .next (answered { s with dec := { s.dec with state := .armedHigh, acc := 0, cnt := 0, sum := 0 } } .ok (.found 0))

/-- R153: every other event in Idle. -/
def Obligations.FeedIdleOther : Prop :=
  ∀ (level : Bit) (dur : Dur) (s : State), s.dec.state = .idle → level = 1 ∨ dur.toNat < 3241 ∨ 24839 < dur.toNat →
    exec (.feed level dur) s = .next (answered s .ok (.found 0))

/-- R154, with the sum of R104: a high event of any duration in ArmedHigh. -/
def Obligations.FeedArmedHighTakesHigh : Prop :=
  ∀ (dur : Dur) (s : State), s.dec.state = .armedHigh →
    exec (.feed 1 dur) s
      = .next (answered
          { s with dec := { s.dec with state := .armedLow, tlast := dur, sum := BitVec.ofNat 32 (s.dec.sum.toNat + dur.toNat) } }
          .ok (.found 0))

/-- R155: a low event of any duration in ArmedHigh. -/
def Obligations.FeedArmedHighLowGoesIdle : Prop :=
  ∀ (dur : Dur) (s : State), s.dec.state = .armedHigh →
    exec (.feed 0 dur) s = .next (answered { s with dec := { s.dec with state := .idle } } .ok (.found 0))

/-- R156: a high event of any duration in ArmedLow. -/
def Obligations.FeedArmedLowHighGoesIdle : Prop :=
  ∀ (dur : Dur) (s : State), s.dec.state = .armedLow →
    exec (.feed 1 dur) s = .next (answered { s with dec := { s.dec with state := .idle } } .ok (.found 0))

/-- R158, with the windows of R7 and the laws R104, R105 and R106: (short, long) appends 0; failing that, (long, short)
appends 1; where both hold, 0. -/
def Obligations.FeedArmedLowAppendsBit : Prop :=
  ∀ (dur : Dur) (s : State) (b : Bit), s.dec.state = .armedLow → dur.toNat < 2340 →
    (b = 0 ∧ InShort s.dec.tlast ∧ InLong dur)
        ∨ (b = 1 ∧ ¬(InShort s.dec.tlast ∧ InLong dur) ∧ InLong s.dec.tlast ∧ InShort dur) →
    exec (.feed 0 dur) s
      = .next (answered
          { s with dec := { s.dec with
              state := .armedHigh
              acc := BitVec.ofNat 64 ((s.dec.acc.toNat <<< 1) ||| b.toNat)
              cnt := BitVec.ofNat 8 (s.dec.cnt.toNat + 1)
              sum := BitVec.ofNat 32 (s.dec.sum.toNat + dur.toNat) } }
          .ok (.found 0))

/-- R159: a low event that is no gap and fits neither pair. -/
def Obligations.FeedArmedLowMisfitGoesIdle : Prop :=
  ∀ (dur : Dur) (s : State), s.dec.state = .armedLow → dur.toNat < 2340 →
    ¬(InShort s.dec.tlast ∧ InLong dur) → ¬(InLong s.dec.tlast ∧ InShort dur) →
    exec (.feed 0 dur) s = .next (answered { s with dec := { s.dec with state := .idle } } .ok (.found 0))

/-- R160 to R162, R164 and R166 under `PREV_UPDATE = ALWAYS`: the frame boundary, whatever `DEC_CNT` holds. It finalizes
exactly when the three conditions of R161 hold, and then writes all four record registers. -/
def Obligations.FeedBoundary : Prop :=
  ∀ (dur : Dur) (s : State), s.dec.state = .armedLow → 2340 ≤ dur.toNat →
    exec (.feed 0 dur) s
      = .next (answered
          { s with
              dec := { s.dec with state := .armedHigh, acc := 0, cnt := 0, sum := 0, prev := s.dec.acc }
              record :=
                if s.dec.cnt = 24 ∧ s.dec.acc = s.dec.prev ∧ s.dec.prev ≠ 0 then
                  { data := s.dec.acc
                    bits := 24
                    te := BitVec.ofNat 32 (s.dec.sum.toNat / 97)
                    guard := BitVec.ofNat 8 (guardFor dur.toNat (s.dec.sum.toNat / 97)) }
                else s.record }
          .ok (.found (if s.dec.cnt = 24 ∧ s.dec.acc = s.dec.prev ∧ s.dec.prev ≠ 0 then 1 else 0)))

/-- R165, for every configuration: when the previous-frame word is updated at a boundary; this machine has the default
`ALWAYS`. -/
def Obligations.PreviousFrameUpdate : Prop :=
  prn.prevUpdate = .always
    ∧ ∀ (c : Config) (dur : Dur) (d : DecRegs) (r : RecRegs), d.state = .armedLow → isGap c dur = true →
        (c.prevUpdate = .always → (feedRegs c 0 dur d r).dec.prev = d.acc)
          ∧ (c.prevUpdate = .fullOnly → d.cnt.toNat = c.minBits → (feedRegs c 0 dur d r).dec.prev = d.acc)
          ∧ (c.prevUpdate = .fullOnly → d.cnt.toNat ≠ c.minBits → (feedRegs c 0 dur d r).dec.prev = d.prev)

/-- R157, for every configuration, also one whose long window reaches into the gaps: a gap ends the frame and appends no
bit. -/
def Obligations.GapNeverClassifies : Prop :=
  ∀ (c : Config) (dur : Dur) (d : DecRegs) (r : RecRegs), d.state = .armedLow → isGap c dur = true →
    (feedRegs c 0 dur d r).dec.state = .armedHigh ∧ (feedRegs c 0 dur d r).dec.acc = 0
      ∧ (feedRegs c 0 dur d r).dec.cnt = 0 ∧ (feedRegs c 0 dur d r).dec.sum = 0
      ∧ (feedRegs c 0 dur d r).dec.tlast = d.tlast

/-- R31: only a FEED that responds `found = 1` changes a record register; it writes all four, and the guard ratio it
writes lies in [15, 72], so that a guard ratio in range stays in range at every command. -/
def Obligations.RecordWrittenOnlyByFinalize : Prop :=
  ∀ (i : Instr) (s : State), ∃ t r, exec i s = .next t ∧ t.responses = s.responses ++ [r]
    ∧ (r.payload ≠ .found 1 → t.record = s.record)
    ∧ (r.payload = .found 1 →
        (∃ dur, i = .feed 0 dur
          ∧ t.record = { data := s.dec.acc
                         bits := s.dec.cnt
                         te := BitVec.ofNat 32 (s.dec.sum.toNat / 97)
                         guard := BitVec.ofNat 8 (guardFor dur.toNat (s.dec.sum.toNat / 97)) })
        ∧ 15 ≤ t.record.guard.toNat ∧ t.record.guard.toNat ≤ 72)
    ∧ (15 ≤ s.record.guard.toNat ∧ s.record.guard.toNat ≤ 72 → 15 ≤ t.record.guard.toNat ∧ t.record.guard.toNat ≤ 72)

/-! ## DRST, RDREC, HASH -/

/-- R170: DRST clears every decoder working register and changes nothing else. (R170's remark on the frames that must
follow: `DecoderResetHoldsOffFinalize` and log entry 21.) -/
def Obligations.DecoderResetClears : Prop :=
  opcodeOf (encode .drst) = 0x01
    ∧ ∀ s : State, exec .drst s
        = .next (answered { s with dec := { state := .idle, acc := 0, cnt := 0, prev := 0, sum := 0, tlast := 0 } } .ok .none)

/-- R172: RDREC returns the four record registers and changes none. -/
def Obligations.RecordRead : Prop :=
  opcodeOf (encode .rdrec) = 0x02
    ∧ ∀ s : State, exec .rdrec s
        = .next (answered s .ok (.record s.record.data s.record.bits s.record.te s.record.guard))

/-- R171: HASH is the XOR of the low `min(8, ceil(REC_BITS/8))` bytes of `REC_DATA`. -/
def Obligations.HashOfRecord : Prop :=
  opcodeOf (encode .hash) = 0x03
    ∧ ∀ s : State, exec .hash s
        = .next (answered s .ok (.hash
            ((List.range (min 8 ((s.record.bits.toNat + 7) / 8))).foldl
              (fun h k => h ^^^ s.record.data.extractLsb' (8 * k) 8) 0)))

/-! ## Button Codec -/

/-- R120: FWID is 1 for the four sentinels and 0 for every other value. -/
def Obligations.FieldWidthOfButton : Prop :=
  ∀ (v : Byte) (s : State), opcodeOf (encode (.fwid v)) = 0x10
    ∧ exec (.fwid v) s = .next (answered s .ok (.width (if IsSentinel v then 1 else 0)))

/-- R121: SPLIT tests the low byte, then takes off 8 or 4 bits. -/
def Obligations.SplitDataWord : Prop :=
  ∀ (data : Data) (s : State), opcodeOf (encode (.split data)) = 0x11
    ∧ exec (.split data) s
        = .next (answered s .ok
            (if IsSentinel (BitVec.ofNat 8 (data.toNat % 256)) then
              .split (BitVec.ofNat 64 (data.toNat / 256)) (BitVec.ofNat 8 (data.toNat % 256)) 1
            else .split (BitVec.ofNat 64 (data.toNat / 16)) (BitVec.ofNat 8 (data.toNat % 16)) 0))

/-- R122 with R111: PACK shifts by the width given, drops what does not fit in 64 bits and does not mask the button. -/
def Obligations.PackDataWord : Prop :=
  ∀ (serial : Data) (button : Byte) (wsel : Bit) (s : State), opcodeOf (encode (.pack serial button wsel)) = 0x12
    ∧ exec (.pack serial button wsel) s
        = .next (answered s .ok
            (.data (BitVec.ofNat 64 ((serial.toNat <<< (if wsel = 1 then 8 else 4)) ||| button.toNat))))

/-- R124 with R126: REMAP through the OPEN table, for the four direction codes of R125 (which code names which direction is
UNVERIFIED, log entry 11); nothing is assumed of the table (log entry 6). -/
def Obligations.RemapThroughOpenTable : Prop :=
  ∀ (orig dir : Byte) (wsel : Bit) (s : State), opcodeOf (encode (.remap orig dir wsel)) = 0x13
    ∧ exec (.remap orig dir wsel) s
        = .next (answered s .ok (.button
            (if dir = 0 then orig
             else if dir = 1 then (Config.openRemapTable .up wsel orig).getD orig
             else if dir = 2 then (Config.openRemapTable .down wsel orig).getD orig
             else if dir = 3 then (Config.openRemapTable .left wsel orig).getD orig
             else if dir = 4 then (Config.openRemapTable .right wsel orig).getD orig
             else orig)))

/-- R126 and R127, for every table: OK, a code of 5 or more and an absent entry pass the original through; an entry is
taken. -/
def Obligations.RemapForEveryTable : Prop :=
  ∀ (c : Config) (orig dir : Byte) (wsel : Bit),
    (dir = 0 → remapButton c orig dir wsel = orig)
      ∧ (5 ≤ dir.toNat → remapButton c orig dir wsel = orig)
      ∧ (∀ d : Direction, (d = .up ∧ dir = 1) ∨ (d = .down ∧ dir = 2) ∨ (d = .left ∧ dir = 3) ∨ (d = .right ∧ dir = 4) →
          (c.remapTable d wsel orig = none → remapButton c orig dir wsel = orig)
            ∧ ∀ b, c.remapTable d wsel orig = some b → remapButton c orig dir wsel = b)

/-- R123, which the spec derives from R121 and R122: what SPLIT makes of a packed word. For the 8-bit width every sentinel round-trips with the serial cut to 56
bits; for the 4-bit width the round trip holds exactly for `b <= 0xF` with a low byte that is no sentinel. -/
def Obligations.PackSplitRoundTrip : Prop :=
  ∀ (serial : Data) (b : Byte) (s : State),
    (IsSentinel b → ∃ d, exec (.pack serial b 1) s = .next (answered s .ok (.data d))
        ∧ exec (.split d) s = .next (answered s .ok (.split (BitVec.ofNat 64 (serial.toNat % 2 ^ 56)) b 1)))
      ∧ (∃ d, exec (.pack serial b 0) s = .next (answered s .ok (.data d))
          ∧ (exec (.split d) s = .next (answered s .ok (.split (BitVec.ofNat 64 (serial.toNat % 2 ^ 60)) b 0))
              ↔ b.toNat ≤ 0xF ∧ ¬IsSentinel (BitVec.ofNat 8 (((serial.toNat % 16) <<< 4) ||| b.toNat))))

/-! ## Frame Encoder -/

/-- R192: a failed CONFIG reports its status and writes no register. -/
def Obligations.FailedConfigWritesNothing : Prop :=
  ∀ (serial : Data) (button bits : Byte) (te : Dur) (teP : Bit) (guard : Dur) (guardP : Bit) (rep : Dur) (repP : Bit)
    (s : State), teP = 0 ∨ bits ≠ 24 →
    exec (.config serial button bits te teP guard guardP rep repP) s
      = .next (answered s (if teP = 0 then .errMissingTe else .errBitCount) .none)

/-- R191, for every configuration: the three failures in their order, and success when none holds. Under the R6 values
the third cannot occur. -/
def Obligations.ConfigValidationOrder : Prop :=
  ∀ (c : Config) (serial : Data) (button bits : Byte) (te : Dur) (teP : Bit) (guard : Dur) (guardP : Bit) (rep : Dur)
    (repP : Bit) (s : State),
    (teP = 0 → s.configure c serial button bits te teP guard guardP rep repP = answered s .errMissingTe .none)
      ∧ (teP = 1 → bits.toNat ≠ c.minBits →
          s.configure c serial button bits te teP guard guardP rep repP = answered s .errBitCount .none)
      ∧ (teP = 1 → bits.toNat = c.minBits → c.encCapacity < 2 * bits.toNat + 2 →
          s.configure c serial button bits te teP guard guardP rep repP = answered s .errCapacity .none)
      ∧ (teP = 1 → bits.toNat = c.minBits → 2 * bits.toNat + 2 ≤ c.encCapacity →
          (s.configure c serial button bits te teP guard guardP rep repP).responses = s.responses ++ [⟨.ok, .none⟩])
      ∧ ¬prn.encCapacity < 2 * prn.minBits + 2

/-- R190 on success, with R110, R193 to R196, R198 and R199: what a CONFIG with `te` present and 24 bits leaves in every
register. `o` is the original button after the first-use write, `eff` the effective button, `data` the packed word, `g`
the guard ratio. -/
def Obligations.ConfigBuildsSequence : Prop :=
  ∀ (serial : Data) (button : Byte) (te guard : Dur) (guardP : Bit) (rep : Dur) (repP : Bit) (s : State),
    let o := if s.ctx.orig = 0 then button else s.ctx.orig
    let eff := remapButton prn o s.ctx.vbtn (if IsSentinel o then 1 else 0)
    let data := BitVec.ofNat 64 ((serial.toNat <<< (if IsSentinel eff then 8 else 4)) ||| eff.toNat)
    let g := if guardP = 1 ∧ 15 ≤ guard.toNat ∧ guard.toNat ≤ 72 then guard.toNat else 30
    let t3 := BitVec.ofNat 32 (3 * te.toNat)
    ∃ seq, exec (.config serial button 24 te 1 guard guardP rep repP) s
        = .next (answered
            { s with
                enc := { seq := seq, len := 50, cur := 0, rep := if repP = 1 then rep else 10, run := 1 }
                ctx := { orig := o, vbtn := s.ctx.vbtn, vmax := 4 } }
            .ok .none)
      ∧ (∀ j, j < 24 →
          seq[2 * j]? = some ⟨1, if data.getLsbD (23 - j) then t3 else te⟩
            ∧ seq[2 * j + 1]? = some ⟨0, if data.getLsbD (23 - j) then te else t3⟩)
      ∧ seq[48]? = some ⟨1, te⟩
      ∧ seq[49]? = some ⟨0, BitVec.ofNat 32 (te.toNat * g)⟩
      ∧ ∀ k, 50 ≤ k → seq[k]? = s.enc.seq[k]?

/-- R200 and R201, in every state: finished, or the pulse at the cursor and the cursor moved on. `p` is the entry of
`ENC_SEQ` at the cursor; where there is no such entry (never, R61; log entry 7) nothing is said of `p`, and the command
still completes. -/
def Obligations.NextReturnsPulseAtCursor : Prop :=
  opcodeOf (encode .next) = 0x21
    ∧ ∀ s : State,
      (s.enc.rep = 0 ∨ s.enc.run = 0 →
        exec .next s = .next (answered { s with enc := { s.enc with run := 0 } } .ok (.pulse 0 0 0)))
      ∧ (s.enc.rep ≠ 0 → s.enc.run = 1 →
        ∃ p : Pulse, (∀ q, s.enc.seq[s.enc.cur.toNat]? = some q → p = q)
          ∧ exec .next s
              = .next (answered
                  { s with enc :=
                      if s.enc.cur.toNat + 1 = s.enc.len.toNat then
                        { s.enc with cur := 0, rep := BitVec.ofNat 32 (s.enc.rep.toNat - 1) }
                      else { s.enc with cur := BitVec.ofNat 8 (s.enc.cur.toNat + 1) } }
                  .ok (.pulse 1 p.level p.dur)))

/-- R203: STOP clears `ENC_RUN` in any state and changes nothing else. -/
def Obligations.StopClearsRun : Prop :=
  opcodeOf (encode .stop) = 0x22
    ∧ ∀ s : State, exec .stop s = .next (answered { s with enc := { s.enc with run := 0 } } .ok .none)

/-- R202, which the spec derives from R200 and R201: after a CONFIG with repeat count r, the first r * 50 NEXTs return the entries of the
sequence in order, r times over, and every later NEXT returns finished. -/
def Obligations.PlaybackReturnsExactlyAllRepeats : Prop :=
  ∀ (serial : Data) (button : Byte) (te guard : Dur) (guardP : Bit) (rep : Dur) (repP : Bit) (s : State),
    ∃ t, exec (.config serial button 24 te 1 guard guardP rep repP) s = .next t
      ∧ 50 ≤ t.enc.seq.length
      ∧ ∀ n, ∃ u, execAll (List.replicate n .next) t = .next u
          ∧ u.responses = t.responses ++ (List.range n).map fun k =>
              if k < (if repP = 1 then rep else 10).toNat * 50 then
                ⟨.ok, .pulse 1 (t.enc.seq.getD (k % 50) ⟨0, 0⟩).level (t.enc.seq.getD (k % 50) ⟨0, 0⟩).dur⟩
              else ⟨.ok, .pulse 0 0 0⟩

/-- R288, which the spec derives from R203: after STOP, whatever commands follow, only a CONFIG that succeeds makes NEXT return a pulse again:
until then NEXT is finished, and after one with a repeat count NEXT returns a pulse. -/
def Obligations.StopIsFinalUntilConfig : Prop :=
  ∀ (s t : State), exec .stop s = .next t → ∀ is : List Instr, (∀ i ∈ is, isGoodConfig i = false) →
    ∃ u, execAll is t = .next u
      ∧ exec .next u = .next (answered u .ok (.pulse 0 0 0))
      ∧ ∀ (serial : Data) (button : Byte) (te guard : Dur) (guardP : Bit) (rep : Dur), rep ≠ 0 →
          ∃ v w l d, exec (.config serial button 24 te 1 guard guardP rep 1) u = .next v
            ∧ exec .next v = .next w ∧ w.responses = v.responses ++ [⟨.ok, .pulse 1 l d⟩]

/-- From R71 and R286: as long as no CONFIG succeeds, no command changes the sequence or its length; a CONFIG that
succeeds restarts at entry 0 of the new sequence, even in the middle of a pass. -/
def Obligations.SequenceImmutableBetweenConfigs : Prop :=
  (∀ (is : List Instr) (s : State), (∀ i ∈ is, isGoodConfig i = false) →
      ∃ t, execAll is s = .next t ∧ t.enc.seq = s.enc.seq ∧ t.enc.len = s.enc.len)
    ∧ ∀ (serial : Data) (button : Byte) (te guard : Dur) (guardP : Bit) (rep : Dur) (s : State), rep ≠ 0 →
        ∃ t u p, exec (.config serial button 24 te 1 guard guardP rep 1) s = .next t ∧ t.enc.seq[0]? = some p
          ∧ exec .next t = .next u ∧ u.responses = t.responses ++ [⟨.ok, .pulse 1 p.level p.dur⟩] ∧ u.enc.cur = 1

/-! ## Button context -/

/-- R230, R232 and R234: the three reads. -/
def Obligations.ContextReads : Prop :=
  opcodeOf (encode .getorig) = 0x30 ∧ opcodeOf (encode .getvbtn) = 0x32 ∧ opcodeOf (encode .getvmax) = 0x34
    ∧ ∀ s : State,
        exec .getorig s = .next (answered s .ok (.value s.ctx.orig))
          ∧ exec .getvbtn s = .next (answered s .ok (.value s.ctx.vbtn))
          ∧ exec .getvmax s = .next (answered s .ok (.value s.ctx.vmax))

/-- R231 and R235: the two writes that take any value. -/
def Obligations.ContextWritesOfAnyValue : Prop :=
  ∀ (v : Byte) (s : State), opcodeOf (encode (.setorig v)) = 0x31 ∧ opcodeOf (encode (.setvmax v)) = 0x35
    ∧ exec (.setorig v) s = .next (answered { s with ctx := { s.ctx with orig := v } } .ok .none)
    ∧ exec (.setvmax v) s = .next (answered { s with ctx := { s.ctx with vmax := v } } .ok .none)

/-- R233: SETVBTN writes a value up to `CTX_VMAX` and refuses a greater one with ERR_RANGE. -/
def Obligations.VirtualButtonWrite : Prop :=
  ∀ (v : Byte) (s : State), opcodeOf (encode (.setvbtn v)) = 0x33
    ∧ (v.toNat ≤ s.ctx.vmax.toNat →
        exec (.setvbtn v) s = .next (answered { s with ctx := { s.ctx with vbtn := v } } .ok .none))
    ∧ (s.ctx.vmax.toNat < v.toNat → exec (.setvbtn v) s = .next (answered s .errRange .none))

/-- From R281: `SETORIG 0` with `SETVBTN 0` clears the context from any state and touches no other register. -/
def Obligations.ContextClearing : Prop :=
  ∀ s : State, ∃ t, execAll [.setorig 0, .setvbtn 0] s = .next t
    ∧ t.ctx = { s.ctx with orig := 0, vbtn := 0 } ∧ t.dec = s.dec ∧ t.record = s.record ∧ t.enc = s.enc
    ∧ t.responses = s.responses ++ [⟨.ok, .none⟩, ⟨.ok, .none⟩]

/-! ## Encoding and steps -/

/-- R84: the opcode byte of every command, and that a word decodes to a command of its own opcode. -/
def Obligations.OpcodeMap : Prop :=
  (∀ level dur, opcodeOf (encode (.feed level dur)) = 0x00) ∧ opcodeOf (encode .drst) = 0x01
    ∧ opcodeOf (encode .rdrec) = 0x02 ∧ opcodeOf (encode .hash) = 0x03
    ∧ (∀ v, opcodeOf (encode (.fwid v)) = 0x10) ∧ (∀ d, opcodeOf (encode (.split d)) = 0x11)
    ∧ (∀ s b w, opcodeOf (encode (.pack s b w)) = 0x12) ∧ (∀ o d w, opcodeOf (encode (.remap o d w)) = 0x13)
    ∧ (∀ s b n t tp g gp r rp, opcodeOf (encode (.config s b n t tp g gp r rp)) = 0x20)
    ∧ opcodeOf (encode .next) = 0x21 ∧ opcodeOf (encode .stop) = 0x22
    ∧ opcodeOf (encode .getorig) = 0x30 ∧ (∀ v, opcodeOf (encode (.setorig v)) = 0x31)
    ∧ opcodeOf (encode .getvbtn) = 0x32 ∧ (∀ v, opcodeOf (encode (.setvbtn v)) = 0x33)
    ∧ opcodeOf (encode .getvmax) = 0x34 ∧ (∀ v, opcodeOf (encode (.setvmax v)) = 0x35)
    ∧ ∀ (cmd : Command) (i : Instr), decode cmd = .ok i → opcodeOf (encode i) = opcodeOf cmd

/-- Decoding an encoded command gives it back, with every operand at every value (formats of R81, opcodes of R84). The
places of the fields in the bundle are the model's choice (log entry 3). -/
def Obligations.DecodeOfEncode : Prop := ∀ i : Instr, decode (encode i) = .ok i

/-- Words written out from the opcode map of R84 and the formats of R81, with the field places of log entry 3: FEED
1, 390; DRST; SETVBTN 3; REMAP 0x30, 2, 1. -/
def Obligations.DecodeSampleWords : Prop :=
  decode (BitVec.ofNat 187 (0x00 + 1 * 2 ^ 8 + 390 * 2 ^ 9)) = .ok (.feed 1 390)
    ∧ decode (BitVec.ofNat 187 0x01) = .ok .drst
    ∧ decode (BitVec.ofNat 187 (0x33 + 3 * 2 ^ 8)) = .ok (.setvbtn 3)
    ∧ decode (BitVec.ofNat 187 (0x13 + 0x30 * 2 ^ 8 + 2 * 2 ^ 16 + 1 * 2 ^ 24)) = .ok (.remap 0x30 2 1)

/-- When the oldest pending command decodes to an instruction, the step is `exec` of it in the state without that
command. The queue is the model's own (log entry 1). -/
def Obligations.StepRunsDecodedCommand : Prop :=
  ∀ (cmd : Command) (rest : List Command) (i : Instr) (s : State), s.pending = cmd :: rest → decode cmd = .ok i →
    step s = exec i { s with pending := rest }

/-- From R3 ("No state changes between commands"): with no command pending a step changes nothing (the model's reading,
log entry 5). -/
def Obligations.StepWithoutCommand : Prop := ∀ s : State, s.pending = [] → step s = .next s

/-- From R85 and R254: a reserved opcode, whatever the rest of the word, is answered with ILLEGAL (code 7), no other field
and no register changed; and only reserved opcodes are. The queue the command is taken from is the model's own (DESIGN
CHOICE, log entry 1), and that a word with another opcode decodes whatever its unnamed bundle bits is the model's choice
too (DESIGN CHOICE, log entry 4). -/
def Obligations.ReservedOpcodesAreIllegal : Prop :=
  Status.code .illegal = 7
    ∧ (∀ (cmd : Command) (rest : List Command) (s : State), s.pending = cmd :: rest → IsReserved (opcodeOf cmd) →
        step s = .next (answered { s with pending := rest } .illegal .none))
    ∧ ∀ cmd : Command, ¬IsReserved (opcodeOf cmd) → ∃ i, decode cmd = .ok i

/-- R82: every command returns one response, with the fields of its row of the table. -/
def Obligations.EveryCommandReturnsItsResponse : Prop :=
  ∀ (i : Instr) (s : State), ∃ t r, exec i s = .next t ∧ t.responses = s.responses ++ [r] ∧ FieldsOf i r.payload

/-- From R251: the codes; which command returns which status, and when; a status other than OK changes no register; no
command returns a reserved code, and 7 is returned for reserved opcodes only. The queue from which the last clause takes
the reserved command is the model's own (DESIGN CHOICE, log entry 1). -/
def Obligations.StatusTable : Prop :=
  Status.code .ok = 0 ∧ Status.code .errCapacity = 1 ∧ Status.code .errMissingTe = 2 ∧ Status.code .errBitCount = 3
    ∧ Status.code .errRange = 4 ∧ Status.code .illegal = 7
    ∧ (∀ st : Status, st.code ≠ 5 ∧ st.code ≠ 6)
    ∧ (∀ (i : Instr) (s : State), ∃ t p, exec i s = .next t ∧ t.responses = s.responses ++ [⟨statusOf i s, p⟩]
        ∧ (statusOf i s ≠ .ok → t.dec = s.dec ∧ t.record = s.record ∧ t.enc = s.enc ∧ t.ctx = s.ctx))
    ∧ (∀ (c : Config) (serial : Data) (button bits : Byte) (te guard : Dur) (guardP : Bit) (rep : Dur) (repP : Bit)
        (s : State), bits.toNat = c.minBits → c.encCapacity < 2 * bits.toNat + 2 →
        s.configure c serial button bits te 1 guard guardP rep repP = answered s .errCapacity .none)
    ∧ ∀ (cmd : Command) (rest : List Command) (s : State), s.pending = cmd :: rest → IsReserved (opcodeOf cmd) →
        step s = .next (answered { s with pending := rest } .illegal .none)

/-- R68: NEXT is a read with side effects (on a running encoder it always changes an encoder register); the nine other
reads change no register, and give the same response again whatever has been answered in between. -/
def Obligations.ReadsWithoutSideEffects : Prop :=
  (∀ s : State, s.enc.run = 1 → ∃ t, exec .next s = .next t ∧ t.enc ≠ s.enc)
    ∧ ∀ (i : Instr) (s : State), IsPureRead i →
        ∃ r, ∀ answers : List Response, exec i { s with responses := answers } = .next { s with responses := answers ++ [r] }

/-- From R20, R31, R32, R33 and R236: each register is written only by the commands its rule names; here as what every
other command leaves unchanged. -/
def Obligations.RegistersWrittenOnlyByTheirCommands : Prop :=
  ∀ (i : Instr) (s : State), ∃ t, exec i s = .next t ∧ t.pending = s.pending
    ∧ ((∀ l d, i ≠ .feed l d) → i ≠ .drst → t.dec = s.dec)
    ∧ ((∀ l d, i ≠ .feed l d) → t.record = s.record)
    ∧ (isGoodConfig i = false → i ≠ .next → i ≠ .stop → t.enc = s.enc)
    ∧ (isGoodConfig i = false → t.enc.seq = s.enc.seq ∧ t.enc.len = s.enc.len)
    ∧ (isGoodConfig i = false → i ≠ .next → t.enc.cur = s.enc.cur ∧ t.enc.rep = s.enc.rep)
    ∧ (isGoodConfig i = false → (∀ v, i ≠ .setorig v) → t.ctx.orig = s.ctx.orig)
    ∧ ((∀ v, i ≠ .setorig v) → s.ctx.orig ≠ 0 → t.ctx.orig = s.ctx.orig)
    ∧ ((∀ v, i ≠ .setvbtn v) → t.ctx.vbtn = s.ctx.vbtn)
    ∧ (isGoodConfig i = false → (∀ v, i ≠ .setvmax v) → t.ctx.vmax = s.ctx.vmax)

/-! ## Invariants, isolation, whole-machine claims -/

/-- The reset state meets the invariant (R42; R31, R61, R197). -/
def Obligations.ResetIsLegal : Prop := State.reset.Legal

/-- From R31, R61, R161, R162 and R197: from every state that meets the invariant, every step gives a state that meets
it: the guard ratio of the record in [15, 72], a record of 0 or 24 bits and in the second case not zero, the cursor
below the length whenever NEXT may read, the length at most the capacity. -/
def Obligations.StepKeepsLegal : Prop := ∀ s t : State, s.Legal → step s = .next t → t.Legal

/-- From R250 and R258: every step answers a next state, in every state. No command traps (R250); that none is refused is
DEDUCED (log entry 16); that a step with no command pending answers the same state is the model's choice (DESIGN CHOICE,
log entry 5). -/
def Obligations.EveryStepCompletes : Prop := ∀ s : State, ∃ t, step s = .next t

/-- From R260 ("The decoder and the encoder share nothing except the context registers"): what the decoder commands do
and answer depends on the decoder and record registers alone; what CONFIG, NEXT and STOP do and answer depends on the
encoder and context registers alone. -/
def Obligations.DecoderAndEncoderAreIsolated : Prop :=
  (∀ (i : Instr) (s₁ s₂ : State), (∃ l d, i = .feed l d) ∨ i = .drst ∨ i = .rdrec ∨ i = .hash →
      s₁.dec = s₂.dec → s₁.record = s₂.record → s₁.responses = s₂.responses →
      ∃ t₁ t₂, exec i s₁ = .next t₁ ∧ exec i s₂ = .next t₂
        ∧ t₁.dec = t₂.dec ∧ t₁.record = t₂.record ∧ t₁.responses = t₂.responses
        ∧ t₁.enc = s₁.enc ∧ t₂.enc = s₂.enc ∧ t₁.ctx = s₁.ctx ∧ t₂.ctx = s₂.ctx)
    ∧ ∀ (i : Instr) (s₁ s₂ : State),
        (∃ s b n t tp g gp r rp, i = .config s b n t tp g gp r rp) ∨ i = .next ∨ i = .stop →
        s₁.enc = s₂.enc → s₁.ctx = s₂.ctx → s₁.responses = s₂.responses →
        ∃ t₁ t₂, exec i s₁ = .next t₁ ∧ exec i s₂ = .next t₂
          ∧ t₁.enc = t₂.enc ∧ t₁.ctx = t₂.ctx ∧ t₁.responses = t₂.responses
          ∧ t₁.dec = s₁.dec ∧ t₂.dec = s₂.dec ∧ t₁.record = s₁.record ∧ t₂.record = s₂.record

/-- R284, which the spec derives from R150: after a FEED that responds `found = 1`, no command sequence with at most 49 FEEDs in it responds `found = 1`
again, so at least 50 FEEDs separate two finalizes, and the record stays as it is until then. -/
def Obligations.FiftyFeedsBetweenFinalizes : Prop :=
  ∀ (level : Bit) (dur : Dur) (s t : State), exec (.feed level dur) s = .next t →
    t.responses = s.responses ++ [⟨.ok, .found 1⟩] →
    ∀ is : List Instr, is.countP isFeed ≤ 49 →
      ∃ u answers, execAll is t = .next u ∧ u.responses = t.responses ++ answers
        ∧ (∀ r ∈ answers, r.payload ≠ .found 1) ∧ u.record = t.record

/-- From R170 and R150: after DRST no command sequence with at most 54 FEEDs in it responds `found = 1`, and the record stays
as it is: a preamble, a frame of one bit at the least (4 FEEDs), which leaves a previous-frame word, and a full frame (50
FEEDs) must come first. R170's own remark asks for two full frames there; R150 does not (log entry 21). -/
def Obligations.DecoderResetHoldsOffFinalize : Prop :=
  ∀ (s t : State), exec .drst s = .next t → ∀ is : List Instr, is.countP isFeed ≤ 54 →
    ∃ u answers, execAll is t = .next u ∧ u.responses = t.responses ++ answers
      ∧ (∀ r ∈ answers, r.payload ≠ .found 1) ∧ u.record = t.record

/-- From R285 (R150, R152, R161): from Idle, a preamble and one frame that repeats the previous-frame word, whichever
boundary loaded that word (log entry 21), finalize on the frame's last FEED and on no other, and the record holds the
word, the time unit and the guard ratio sent. -/
def Obligations.OneFrameValidatesAgainstPrevious : Prop :=
  ∀ (x t g : Nat) (s : State),
    x ≠ 0 → x < 2 ^ 24 → 91 ≤ t → t ≤ 689 → 15 ≤ g → g ≤ 72 → 2340 ≤ t * g →
    s.dec.state = .idle → s.dec.prev = BitVec.ofNat 64 x →
    ∃ u earlier, execAll (expandLine .pre ++ expandLine (.frame x t g)) s = .next u
      ∧ u.record = { data := BitVec.ofNat 64 x, bits := 24, te := BitVec.ofNat 32 t, guard := BitVec.ofNat 8 g }
      ∧ u.responses = s.responses ++ earlier ++ [⟨.ok, .found 1⟩]
      ∧ earlier.length = 50 ∧ ∀ r ∈ earlier, r = ⟨.ok, .found 0⟩

/-- From the rules of the encoder and the decoder together (R163, R164, R196; source property 1 as 90_conflicts.md C5
restates it; vector L1-4): a decoder in ArmedHigh with clear accumulators that is fed two passes of what CONFIG builds
ends with a finalize, and the record holds the 24 bits sent, the time unit and the guard ratio exactly, for every
serial and button, every `te` whose cells classify (short and long windows of R7: 91 to 689 us) and every guard ratio in
range whose gap is a frame boundary. The request is OK, so the OPEN table is not used; a word of zero never validates
(R161). -/
def Obligations.EncodedFrameDecodesExactly : Prop :=
  ∀ (serial : Data) (button : Byte) (te guard rep : Dur) (repP : Bit) (s : State),
    91 ≤ te.toNat → te.toNat ≤ 689 → 15 ≤ guard.toNat → guard.toNat ≤ 72 → 2340 ≤ te.toNat * guard.toNat →
    s.dec.state = .armedHigh → s.dec.acc = 0 → s.dec.cnt = 0 → s.dec.sum = 0 → s.ctx.vbtn = 0 →
    let o := if s.ctx.orig = 0 then button else s.ctx.orig
    let sent := ((serial.toNat <<< (if IsSentinel o then 8 else 4)) ||| o.toNat) % 2 ^ 24
    sent ≠ 0 →
    ∃ t u earlier, exec (.config serial button 24 te 1 guard 1 rep repP) s = .next t
      ∧ execAll (feedsOf (t.enc.seq.take 50) ++ feedsOf (t.enc.seq.take 50)) t = .next u
      ∧ u.record = { data := BitVec.ofNat 64 sent, bits := 24, te := te, guard := BitVec.ofNat 8 guard.toNat }
      ∧ u.dec = { state := .armedHigh, acc := 0, cnt := 0, prev := BitVec.ofNat 64 sent, sum := 0, tlast := te }
      ∧ u.responses = t.responses ++ earlier ++ [⟨.ok, .found 1⟩]

/-- From R289: at te = 390 the encoder's guard gap is a preamble exactly for guard ratios 9 to 63. -/
def Obligations.GuardGapSynchronises : Prop :=
  ∀ (g : Nat) (s : State), g ≤ 72 → s.dec.state = .idle →
    ((∃ t, exec (.feed 0 (BitVec.ofNat 32 (390 * g))) s = .next t ∧ t.dec.state = .armedHigh) ↔ 9 ≤ g ∧ g ≤ 63)

/-! ## Assembler -/

/-- R87: the pseudo-instructions, and, which the spec derives from R196, that FRAME is the feed sequence of one pass of the encoder's sequence. -/
def Obligations.PseudoInstructionExpansion : Prop :=
  expandLine .pre = [.feed 0 14040]
    ∧ (∀ t : Nat, expandLine (.cell 1 t) = [.feed 1 (BitVec.ofNat 32 (3 * t)), .feed 0 (BitVec.ofNat 32 t)])
    ∧ (∀ t : Nat, expandLine (.cell 0 t) = [.feed 1 (BitVec.ofNat 32 t), .feed 0 (BitVec.ofNat 32 (3 * t))])
    ∧ (∀ t : Nat, expandLine (.stopp t) = [.feed 1 (BitVec.ofNat 32 t)])
    ∧ (∀ d : Nat, expandLine (.gap d) = [.feed 0 (BitVec.ofNat 32 d)])
    ∧ (∀ n : Nat, expandLine (.drain n) = List.replicate n .next)
    ∧ ∀ x t g : Nat,
        expandLine (.frame x t g)
            = (List.range 24).flatMap (fun j => expandLine (.cell (x / 2 ^ (23 - j) % 2) t))
                ++ expandLine (.stopp t) ++ expandLine (.gap (t * g))
          ∧ expandLine (.frame x t g) = feedsOf (buildSequence 24 (BitVec.ofNat 64 x) (BitVec.ofNat 32 t) g)

/-- From R86: a CONFIG with named operands, where an operand left out has presence flag 0 and value 0, and one written has
presence flag 1. -/
def Obligations.OmittedOperandsAssembleToZero : Prop :=
  ∀ (serial button bits : Nat) (te guard rep : Option Nat),
    expandLine (.configNamed serial button bits te guard rep)
      = [.config (BitVec.ofNat 64 serial) (BitVec.ofNat 8 button) (BitVec.ofNat 8 bits)
          (BitVec.ofNat 32 (te.getD 0)) (if te.isSome then 1 else 0)
          (BitVec.ofNat 32 (guard.getD 0)) (if guard.isSome then 1 else 0)
          (BitVec.ofNat 32 (rep.getD 0)) (if rep.isSome then 1 else 0)]
end

