-- ==== Sys2Proof/Laws/Classifier.lean ====
section
/-! SUPPORT. The classifier and the guard correction in linear form. -/

namespace Sys2Proof.Machine

/-- A match (R100) without the absolute difference. -/
theorem matchesNominal_iff (obs : Dur) (nom tol : Nat) :
    matchesNominal obs nom tol = true ↔ obs.toNat < nom + tol ∧ nom < obs.toNat + tol := by
  rw [matchesNominal, decide_eq_true_eq, absDiff]
  omega

theorem isGap_iff (c : Config) (d : Dur) : isGap c d = true ↔ c.gapMult * c.teLong ≤ d.toNat := by
  simp [isGap]

/-- The correction stays within the range when its default does (R109). -/
theorem guardFix_range {c : Config} (h : c.guardMin ≤ c.guardDefault) (h' : c.guardDefault ≤ c.guardMax) (g : Nat) :
    c.guardMin ≤ guardFix c g ∧ guardFix c g ≤ c.guardMax := by
  unfold guardFix
  split
  · assumption
  · exact ⟨h, h'⟩

/-- The quotient of R107 needs no truncation. -/
theorem timeUnit_toNat (sum : Dur) (cnt : Byte) : (timeUnit sum cnt).toNat = sum.toNat / (cnt.toNat * 4 + 1) := by
  unfold timeUnit trunc32
  rw [BitVec.toNat_ofNat, Nat.mod_eq_of_lt]
  exact lt_of_le_of_lt (Nat.div_le_self _ _) sum.isLt

end Sys2Proof.Machine
end

