-- ==== Sys2Proof/Laws/Codec.lean ====
section
/-! SUPPORT. The pure functions of the Button Codec. -/

namespace Sys2Proof.Machine

theorem isSentinel_prn (v : Byte) : isSentinel prn v = true ↔ v = 0x30 ∨ v = 0xC0 ∨ v = 0x03 ∨ v = 0x0C := by
  simp [isSentinel, prn]

/-- OK returns the original, whatever the table (R126). -/
theorem remapButton_ok (c : Config) (orig : Byte) (wsel : Bit) : remapButton c orig 0 wsel = orig := rfl

theorem packWord_eight (serial : Data) (button : Byte) :
    packWord serial button 1 = serial <<< 8 ||| button.setWidth 64 := rfl

theorem packWord_four (serial : Data) (button : Byte) :
    packWord serial button 0 = serial <<< 4 ||| button.setWidth 64 := rfl

end Sys2Proof.Machine
end

