-- ==== Sys2Proof/Laws/State.lean ====
section
/-! SUPPORT. One lemma per field of State per update, each true by unfolding the record update, so that no later proof
unfolds one. -/

namespace Sys2Proof.Machine

variable (s : State)

@[simp] theorem State.withDec_dec (d : DecRegs) : (s.withDec d).dec = d := rfl
@[simp] theorem State.withDec_record (d : DecRegs) : (s.withDec d).record = s.record := rfl
@[simp] theorem State.withDec_enc (d : DecRegs) : (s.withDec d).enc = s.enc := rfl
@[simp] theorem State.withDec_ctx (d : DecRegs) : (s.withDec d).ctx = s.ctx := rfl
@[simp] theorem State.withDec_pending (d : DecRegs) : (s.withDec d).pending = s.pending := rfl
@[simp] theorem State.withDec_responses (d : DecRegs) : (s.withDec d).responses = s.responses := rfl

@[simp] theorem State.withRecord_dec (r : RecRegs) : (s.withRecord r).dec = s.dec := rfl
@[simp] theorem State.withRecord_record (r : RecRegs) : (s.withRecord r).record = r := rfl
@[simp] theorem State.withRecord_enc (r : RecRegs) : (s.withRecord r).enc = s.enc := rfl
@[simp] theorem State.withRecord_ctx (r : RecRegs) : (s.withRecord r).ctx = s.ctx := rfl
@[simp] theorem State.withRecord_pending (r : RecRegs) : (s.withRecord r).pending = s.pending := rfl
@[simp] theorem State.withRecord_responses (r : RecRegs) : (s.withRecord r).responses = s.responses := rfl

@[simp] theorem State.withEnc_dec (e : EncRegs) : (s.withEnc e).dec = s.dec := rfl
@[simp] theorem State.withEnc_record (e : EncRegs) : (s.withEnc e).record = s.record := rfl
@[simp] theorem State.withEnc_enc (e : EncRegs) : (s.withEnc e).enc = e := rfl
@[simp] theorem State.withEnc_ctx (e : EncRegs) : (s.withEnc e).ctx = s.ctx := rfl
@[simp] theorem State.withEnc_pending (e : EncRegs) : (s.withEnc e).pending = s.pending := rfl
@[simp] theorem State.withEnc_responses (e : EncRegs) : (s.withEnc e).responses = s.responses := rfl

@[simp] theorem State.withCtx_dec (c : CtxRegs) : (s.withCtx c).dec = s.dec := rfl
@[simp] theorem State.withCtx_record (c : CtxRegs) : (s.withCtx c).record = s.record := rfl
@[simp] theorem State.withCtx_enc (c : CtxRegs) : (s.withCtx c).enc = s.enc := rfl
@[simp] theorem State.withCtx_ctx (c : CtxRegs) : (s.withCtx c).ctx = c := rfl
@[simp] theorem State.withCtx_pending (c : CtxRegs) : (s.withCtx c).pending = s.pending := rfl
@[simp] theorem State.withCtx_responses (c : CtxRegs) : (s.withCtx c).responses = s.responses := rfl

@[simp] theorem State.respond_dec (st : Status) (p : Payload) : (s.respond st p).dec = s.dec := rfl
@[simp] theorem State.respond_record (st : Status) (p : Payload) : (s.respond st p).record = s.record := rfl
@[simp] theorem State.respond_enc (st : Status) (p : Payload) : (s.respond st p).enc = s.enc := rfl
@[simp] theorem State.respond_ctx (st : Status) (p : Payload) : (s.respond st p).ctx = s.ctx := rfl
@[simp] theorem State.respond_pending (st : Status) (p : Payload) : (s.respond st p).pending = s.pending := rfl
@[simp] theorem State.respond_responses (st : Status) (p : Payload) : (s.respond st p).responses = s.responses ++ [⟨st, p⟩] := rfl

@[simp] theorem State.failWith_dec (st : Status) : (s.failWith st).dec = s.dec := rfl
@[simp] theorem State.failWith_record (st : Status) : (s.failWith st).record = s.record := rfl
@[simp] theorem State.failWith_enc (st : Status) : (s.failWith st).enc = s.enc := rfl
@[simp] theorem State.failWith_ctx (st : Status) : (s.failWith st).ctx = s.ctx := rfl
@[simp] theorem State.failWith_pending (st : Status) : (s.failWith st).pending = s.pending := rfl
@[simp] theorem State.failWith_responses (st : Status) : (s.failWith st).responses = s.responses ++ [⟨st, .none⟩] := rfl

@[simp] theorem State.issue_dec (cmds : List Command) : (s.issue cmds).dec = s.dec := rfl
@[simp] theorem State.issue_record (cmds : List Command) : (s.issue cmds).record = s.record := rfl
@[simp] theorem State.issue_enc (cmds : List Command) : (s.issue cmds).enc = s.enc := rfl
@[simp] theorem State.issue_ctx (cmds : List Command) : (s.issue cmds).ctx = s.ctx := rfl
@[simp] theorem State.issue_pending (cmds : List Command) : (s.issue cmds).pending = s.pending ++ cmds := rfl
@[simp] theorem State.issue_responses (cmds : List Command) : (s.issue cmds).responses = s.responses := rfl

@[simp] theorem State.placeFirst_dec (cmd : Command) : (s.placeFirst cmd).dec = s.dec := rfl
@[simp] theorem State.placeFirst_record (cmd : Command) : (s.placeFirst cmd).record = s.record := rfl
@[simp] theorem State.placeFirst_enc (cmd : Command) : (s.placeFirst cmd).enc = s.enc := rfl
@[simp] theorem State.placeFirst_ctx (cmd : Command) : (s.placeFirst cmd).ctx = s.ctx := rfl
@[simp] theorem State.placeFirst_pending (cmd : Command) : (s.placeFirst cmd).pending = cmd :: s.pending := rfl
@[simp] theorem State.placeFirst_responses (cmd : Command) : (s.placeFirst cmd).responses = s.responses := rfl

end Sys2Proof.Machine
end

