-- ==== Sys2Proof/Laws/Decoder.lean ====
section
/-! SUPPORT. What a FEED can do, said once: every way through the pseudocode of 42_decoder.md R150. -/

namespace Sys2Proof.Machine

section
variable (s : State) (c : Config) (level : Bit) (dur : Dur)

@[simp] theorem State.feed_dec : (s.feed c level dur).dec = (feedRegs c level dur s.dec s.record).dec := rfl
@[simp] theorem State.feed_record : (s.feed c level dur).record = (feedRegs c level dur s.dec s.record).record := rfl
@[simp] theorem State.feed_enc : (s.feed c level dur).enc = s.enc := rfl
@[simp] theorem State.feed_ctx : (s.feed c level dur).ctx = s.ctx := rfl
@[simp] theorem State.feed_pending : (s.feed c level dur).pending = s.pending := rfl
@[simp] theorem State.feed_responses : (s.feed c level dur).responses
    = s.responses ++ [⟨.ok, .found (flagBit (feedRegs c level dur s.dec s.record).found)⟩] := rfl

end

/-- Every way through FEED: nothing, a preamble, a high taken, a return to Idle, a boundary, a bit. -/
theorem feedRegs_cases (c : Config) (level : Bit) (dur : Dur) (d : DecRegs) (r : RecRegs) :
    (d.state = .idle ∧ ¬(level = 0 ∧ isPreamble c dur = true) ∧ feedRegs c level dur d r = ⟨d, r, false⟩)
    ∨ (d.state = .idle ∧ level = 0 ∧ isPreamble c dur = true ∧ feedRegs c level dur d r = ⟨d.rearm, r, false⟩)
    ∨ (d.state = .armedHigh ∧ level = 1 ∧ feedRegs c level dur d r
        = ⟨{ d with state := .armedLow, tlast := dur, sum := addDuration d.sum dur }, r, false⟩)
    ∨ (d.state ≠ .idle ∧ feedRegs c level dur d r = ⟨d.toIdle, r, false⟩)
    ∨ (d.state = .armedLow ∧ level ≠ 1 ∧ isGap c dur = true ∧ feedRegs c level dur d r = frameBoundary c dur d r)
    ∨ (d.state = .armedLow ∧ level ≠ 1 ∧ isGap c dur = false
        ∧ ∃ b, feedRegs c level dur d r = ⟨d.appendBit b dur, r, false⟩) := by
  unfold feedRegs
  cases hs : d.state with
  | idle =>
    simp only [feedIdle]
    split
    · next h => exact .inr (.inl ⟨trivial, h.1, h.2, rfl⟩)
    · next h => exact .inl ⟨trivial, h, rfl⟩
  | armedHigh =>
    simp only [feedArmedHigh]
    split
    · next h => exact .inr (.inr (.inl ⟨trivial, h, rfl⟩))
    · exact .inr (.inr (.inr (.inl ⟨by simp, rfl⟩)))
  | armedLow =>
    simp only [feedArmedLow]
    split
    · exact .inr (.inr (.inr (.inl ⟨by simp, rfl⟩)))
    · next hl =>
      split
      · next hg => exact .inr (.inr (.inr (.inr (.inl ⟨trivial, hl, hg, rfl⟩))))
      · next hg =>
        have hg' : isGap c dur = false := by simpa using hg
        split
        · exact .inr (.inr (.inr (.inr (.inr ⟨trivial, hl, hg', 0, rfl⟩))))
        · split
          · exact .inr (.inr (.inr (.inr (.inr ⟨trivial, hl, hg', 1, rfl⟩))))
          · exact .inr (.inr (.inr (.inl ⟨by simp, rfl⟩)))

/-- A FEED that does not finalize keeps the record; one that does is at a boundary whose frame validates. -/
theorem feedRegs_record (c : Config) (level : Bit) (dur : Dur) (d : DecRegs) (r : RecRegs) :
    ((feedRegs c level dur d r).found = false ∧ (feedRegs c level dur d r).record = r)
    ∨ ((feedRegs c level dur d r).found = true ∧ (feedRegs c level dur d r).record = finalizedRecord c d dur
        ∧ d.state = .armedLow ∧ level ≠ 1 ∧ isGap c dur = true ∧ d.validates c = true) := by
  rcases feedRegs_cases c level dur d r with ⟨-, -, h⟩ | ⟨-, -, -, h⟩ | ⟨-, -, h⟩ | ⟨-, h⟩ | ⟨hs, hl, hg, h⟩ | ⟨-, -, -, b, h⟩
  · simp [h]
  · simp [h]
  · simp [h]
  · simp [h]
  · cases hv : d.validates c with
    | false => simp [h, frameBoundary, hv]
    | true => exact .inr ⟨by simp [h, frameBoundary, hv], by simp [h, frameBoundary, hv], hs, hl, hg, rfl⟩
  · simp [h]

theorem DecRegs.validates_iff (c : Config) (d : DecRegs) :
    d.validates c = true ↔ d.cnt.toNat = c.minBits ∧ d.acc = d.prev ∧ d.prev ≠ 0 := by
  simp [DecRegs.validates, and_assoc]

end Sys2Proof.Machine
end

