-- ==== Sys2Proof/Laws/Ops.lean ====
section
/-! SUPPORT. What each shared operation can do, said once. -/

namespace Sys2Proof.Machine

/-- Taking a command removes the oldest one and touches nothing else. -/
theorem State.takeCommand_eq_some {s s' : State} {cmd : Command} (h : s.takeCommand = some (cmd, s')) :
    ∃ rest, s.pending = cmd :: rest ∧ s' = { s with pending := rest } := by
  unfold State.takeCommand at h
  split at h
  · cases h
  · next c rest hp => cases h; exact ⟨rest, hp, rfl⟩

theorem State.takeCommand_cons {s : State} {cmd : Command} {rest : List Command} (h : s.pending = cmd :: rest) :
    s.takeCommand = some (cmd, { s with pending := rest }) := by
  simp [State.takeCommand, h]

theorem State.takeCommand_nil {s : State} (h : s.pending = []) : s.takeCommand = none := by
  simp [State.takeCommand, h]

/-- A rejected command is answered with ILLEGAL and nothing else. -/
theorem State.rejectCommand_eq (s : State) (e : DecodeError) : s.rejectCommand e = s.failWith .illegal := by
  cases e; rfl

/-- Inside the entries the cursor's pulse is the entry (R61: the only case a run meets). -/
theorem State.pulseAtCursor_of_getElem? {s : State} {p : Pulse} (h : s.enc.seq[s.enc.cur.toNat]? = some p) :
    s.pulseAtCursor = p := by
  simp [State.pulseAtCursor, h]

theorem writeSeq_length (old built : List Pulse) : (writeSeq old built).length = max built.length old.length := by
  simp [writeSeq]; omega

theorem writeSeq_getElem?_lt {old built : List Pulse} {k : Nat} (h : k < built.length) :
    (writeSeq old built)[k]? = built[k]? := by
  simp [writeSeq, List.getElem?_append, h]

theorem writeSeq_getElem?_ge {old built : List Pulse} {k : Nat} (h : built.length ≤ k) :
    (writeSeq old built)[k]? = old[k]? := by
  simp [writeSeq, List.getElem?_append, Nat.not_lt.mpr h]
  congr 1; omega

/-- The encoder plays exactly when it runs and repeats remain. -/
theorem EncRegs.playing_iff (e : EncRegs) : e.playing = true ↔ e.rep ≠ 0 ∧ e.run = 1 := by
  simp [EncRegs.playing]

theorem EncRegs.clearRun_of_not_running {e : EncRegs} (h : e.run = 0) : e.clearRun = e := by
  cases e; simp_all [EncRegs.clearRun]

/-- A one-bit value is 0 or 1. -/
theorem bit_zero_or_one (b : Bit) : b = 0 ∨ b = 1 := by
  revert b; decide

theorem flagBit_eq_one (b : Bool) : flagBit b = 1 ↔ b = true := by
  cases b <;> simp [flagBit]

end Sys2Proof.Machine
end

