-- ==== Sys2Proof/Laws/Encoder.lean ====
section
/-! SUPPORT. What CONFIG and NEXT can do, said once, and the shape of the built sequence. -/

namespace Sys2Proof.Machine

theorem bitCell_length (te : Dur) (b : Bool) : (bitCell te b).length = 2 := by cases b <;> rfl

theorem bitCells_length (bits : Nat) (data : Data) (te : Dur) : (bitCells bits data te).length = 2 * bits := by
  simp [bitCells, List.length_flatMap, bitCell_length]; omega

theorem buildSequence_length (bits : Nat) (data : Data) (te : Dur) (g : Nat) :
    (buildSequence bits data te g).length = 2 * bits + 2 := by
  simp [buildSequence, bitCells_length]

/-- The validation of R191, failure by failure. -/
theorem configFailure_cases (c : Config) (bits : Byte) (teP : Bit) :
    (teP = 0 ∧ configFailure c bits teP = some .errMissingTe)
    ∨ (teP = 1 ∧ bits.toNat ≠ c.minBits ∧ configFailure c bits teP = some .errBitCount)
    ∨ (teP = 1 ∧ bits.toNat = c.minBits ∧ c.encCapacity < 2 * bits.toNat + 2 ∧ configFailure c bits teP = some .errCapacity)
    ∨ (teP = 1 ∧ bits.toNat = c.minBits ∧ 2 * bits.toNat + 2 ≤ c.encCapacity ∧ configFailure c bits teP = none) := by
  unfold configFailure
  rcases bit_zero_or_one teP with rfl | rfl
  · simp
  · by_cases hb : bits.toNat = c.minBits
    · by_cases hc : c.encCapacity < 2 * bits.toNat + 2
      · simp_all
      · simp_all
    · simp_all

/-- CONFIG fails with a status and writes nothing, or writes the context and the encoder registers (R190, R192). -/
theorem configure_cases (c : Config) (serial : Data) (button bits : Byte) (te : Dur) (teP : Bit) (guard : Dur)
    (guardP : Bit) (rep : Dur) (repP : Bit) (s : State) :
    (∃ st, configFailure c bits teP = some st
        ∧ s.configure c serial button bits te teP guard guardP rep repP = s.failWith st)
    ∨ (configFailure c bits teP = none
        ∧ s.configure c serial button bits te teP guard guardP rep repP
          = ((s.withCtx ⟨originalButton s.ctx button, s.ctx.vbtn, c.vmaxFixed⟩).withEnc
              (s.enc.configured bits.toNat
                (buildSequence bits.toNat (configWord c s.ctx serial button) te (configGuard c guard guardP))
                (configRepeat c rep repP))).respond .ok .none) := by
  unfold State.configure
  cases configFailure c bits teP with
  | none => exact .inr ⟨rfl, rfl⟩
  | some st => exact .inl ⟨st, rfl, rfl⟩

section
variable (c : Config) (serial : Data) (button bits : Byte) (te : Dur) (teP : Bit) (guard : Dur) (guardP : Bit) (rep : Dur)
  (repP : Bit) (s : State)

@[simp] theorem configure_dec : (s.configure c serial button bits te teP guard guardP rep repP).dec = s.dec := by
  rcases configure_cases c serial button bits te teP guard guardP rep repP s with ⟨st, -, h⟩ | ⟨-, h⟩ <;> simp [h]

@[simp] theorem configure_record :
    (s.configure c serial button bits te teP guard guardP rep repP).record = s.record := by
  rcases configure_cases c serial button bits te teP guard guardP rep repP s with ⟨st, -, h⟩ | ⟨-, h⟩ <;> simp [h]

@[simp] theorem configure_pending :
    (s.configure c serial button bits te teP guard guardP rep repP).pending = s.pending := by
  rcases configure_cases c serial button bits te teP guard guardP rep repP s with ⟨st, -, h⟩ | ⟨-, h⟩ <;> simp [h]

/-- CONFIG returns one response, with no field after the status (R82). -/
theorem configure_responses : ∃ st, (s.configure c serial button bits te teP guard guardP rep repP).responses
    = s.responses ++ [⟨st, .none⟩] := by
  rcases configure_cases c serial button bits te teP guard guardP rep repP s with ⟨st, -, h⟩ | ⟨-, h⟩
  · exact ⟨st, by simp [h]⟩
  · exact ⟨.ok, by simp [h]⟩

end

/-- NEXT: finished, or the pulse at the cursor (R200). -/
theorem nextPulse_cases (s : State) :
    ((s.enc.rep = 0 ∨ s.enc.run = 0) ∧ s.nextPulse = (s.withEnc s.enc.clearRun).respond .ok (.pulse 0 0 0))
    ∨ (s.enc.rep ≠ 0 ∧ s.enc.run = 1 ∧ s.nextPulse
        = (s.withEnc s.enc.advance).respond .ok (.pulse 1 s.pulseAtCursor.level s.pulseAtCursor.dur)) := by
  unfold State.nextPulse
  by_cases h : s.enc.playing = true
  · have := (EncRegs.playing_iff _).mp h
    exact .inr ⟨this.1, this.2, by simp [h]⟩
  · have h' := mt (EncRegs.playing_iff _).mpr h
    refine .inl ⟨?_, by simp [h]⟩
    rcases bit_zero_or_one s.enc.run with h0 | h1
    · exact .inr h0
    · exact .inl (by simpa [h1] using h')

section
variable (s : State)

@[simp] theorem nextPulse_dec : s.nextPulse.dec = s.dec := by
  rcases nextPulse_cases s with ⟨-, h⟩ | ⟨-, -, h⟩ <;> simp [h]

@[simp] theorem nextPulse_record : s.nextPulse.record = s.record := by
  rcases nextPulse_cases s with ⟨-, h⟩ | ⟨-, -, h⟩ <;> simp [h]

@[simp] theorem nextPulse_ctx : s.nextPulse.ctx = s.ctx := by
  rcases nextPulse_cases s with ⟨-, h⟩ | ⟨-, -, h⟩ <;> simp [h]

@[simp] theorem nextPulse_pending : s.nextPulse.pending = s.pending := by
  rcases nextPulse_cases s with ⟨-, h⟩ | ⟨-, -, h⟩ <;> simp [h]

end

/-- Moving on changes the cursor and perhaps the repeats, never the sequence, its length or the running flag (R32). -/
theorem EncRegs.advance_frame (e : EncRegs) :
    e.advance.seq = e.seq ∧ e.advance.len = e.len ∧ e.advance.run = e.run := by
  unfold EncRegs.advance
  split <;> simp

end Sys2Proof.Machine
end

