-- ==== Sys2Proof/Laws/Encoding.lean ====
section
/-! SUPPORT. The opcode byte and the operand fields of an encoded command. -/

namespace Sys2Proof

/-- `cmd[7:0]` of an encoded command is its opcode. -/
theorem opcodeOf_encode (i : Instr) : opcodeOf (encode i) = opcode i := by
  apply BitVec.eq_of_getLsbD_eq
  intro k hk
  simp only [opcodeOf, encode, BitVec.getLsbD_extractLsb', BitVec.getLsbD_append, Nat.zero_add, if_pos hk,
    decide_eq_true hk, Bool.true_and]

/-- An operand field of an encoded command is that field of its bundle. -/
theorem operandField_encode (i : Instr) (place width : Nat) :
    operandField (encode i) place width = (bundle i).extractLsb' place width := by
  apply BitVec.eq_of_getLsbD_eq
  intro k hk
  have h : ¬8 + place + k < 8 := by omega
  have h' : 8 + place + k - 8 = place + k := by omega
  simp only [operandField, encode, BitVec.getLsbD_extractLsb', BitVec.getLsbD_append, if_neg h, h', decide_eq_true hk,
    Bool.true_and]

/-- A field that lies in the lower part of `hi ++ lo`. -/
theorem extractLsb'_append_low {a b p w : Nat} (hi : BitVec a) (lo : BitVec b) (h : p + w ≤ b) :
    (hi ++ lo).extractLsb' p w = lo.extractLsb' p w := by
  apply BitVec.eq_of_getLsbD_eq
  intro k hk
  rw [BitVec.getLsbD_extractLsb', BitVec.getLsbD_extractLsb', BitVec.getLsbD_append, if_pos (by omega)]

/-- A field that lies in the upper part of `hi ++ lo`. -/
theorem extractLsb'_append_high {a b p w : Nat} (hi : BitVec a) (lo : BitVec b) (h : b ≤ p) :
    (hi ++ lo).extractLsb' p w = hi.extractLsb' (p - b) w := by
  apply BitVec.eq_of_getLsbD_eq
  intro k hk
  have hp : p + k - b = p - b + k := by omega
  rw [BitVec.getLsbD_extractLsb', BitVec.getLsbD_extractLsb', BitVec.getLsbD_append, if_neg (by omega), hp]

/-- A field that is the whole value. -/
theorem extractLsb'_whole {a : Nat} (v : BitVec a) : v.extractLsb' 0 a = v := by
  apply BitVec.eq_of_getLsbD_eq
  intro k hk
  simp [hk]

/-- A field of a value put at the bottom of the bundle. -/
theorem extractLsb'_bundle {n p w : Nat} (v : BitVec n) (h : p + w ≤ n) (h' : n ≤ 179) :
    (v.setWidth 179).extractLsb' p w = v.extractLsb' p w := by
  apply BitVec.eq_of_getLsbD_eq
  intro k hk
  simp only [BitVec.getLsbD_extractLsb', BitVec.getLsbD_setWidth]
  simp [show p + k < 179 by omega]

end Sys2Proof
end

