-- ==== Sys2Proof/Laws/Exec.lean ====
section
/-! SUPPORT. Each arm of `exec` as an equation, so that no proof unfolds the dispatch, and the steps of a run. -/

namespace Sys2Proof.Machine

section
variable (s : State)

@[simp] theorem exec_feed (level : Bit) (dur : Dur) : exec (.feed level dur) s = .next (s.feed prn level dur) := rfl
@[simp] theorem exec_drst : exec .drst s = .next ((s.withDec ⟨.idle, 0, 0, 0, 0, 0⟩).respond .ok .none) := rfl
@[simp] theorem exec_rdrec : exec .rdrec s
    = .next (s.respond .ok (.record s.record.data s.record.bits s.record.te s.record.guard)) := rfl
@[simp] theorem exec_hash : exec .hash s = .next (s.respond .ok (.hash (prn.hashFn (recordBytes s.record)))) := rfl
@[simp] theorem exec_fwid (v : Byte) : exec (.fwid v) s = .next (s.respond .ok (.width (fieldWidth prn v))) := rfl
@[simp] theorem exec_split (d : Data) : exec (.split d) s = .next (s.respond .ok (splitWord prn d)) := rfl
@[simp] theorem exec_pack (serial : Data) (button : Byte) (wsel : Bit) : exec (.pack serial button wsel) s
    = .next (s.respond .ok (.data (packWord serial button wsel))) := rfl
@[simp] theorem exec_remap (orig dir : Byte) (wsel : Bit) : exec (.remap orig dir wsel) s
    = .next (s.respond .ok (.button (remapButton prn orig dir wsel))) := rfl
@[simp] theorem exec_config (serial : Data) (button bits : Byte) (te : Dur) (teP : Bit) (guard : Dur) (guardP : Bit)
    (rep : Dur) (repP : Bit) : exec (.config serial button bits te teP guard guardP rep repP) s
    = .next (s.configure prn serial button bits te teP guard guardP rep repP) := rfl
@[simp] theorem exec_next : exec .next s = .next s.nextPulse := rfl
@[simp] theorem exec_stop : exec .stop s = .next ((s.withEnc s.enc.clearRun).respond .ok .none) := rfl
@[simp] theorem exec_getorig : exec .getorig s = .next (s.respond .ok (.value s.ctx.orig)) := rfl
@[simp] theorem exec_setorig (v : Byte) : exec (.setorig v) s
    = .next ((s.withCtx { s.ctx with orig := v }).respond .ok .none) := rfl
@[simp] theorem exec_getvbtn : exec .getvbtn s = .next (s.respond .ok (.value s.ctx.vbtn)) := rfl
@[simp] theorem exec_setvbtn (v : Byte) : exec (.setvbtn v) s
    = if v.toNat ≤ s.ctx.vmax.toNat then .next ((s.withCtx { s.ctx with vbtn := v }).respond .ok .none)
      else .next (s.failWith .errRange) := rfl
@[simp] theorem exec_getvmax : exec .getvmax s = .next (s.respond .ok (.value s.ctx.vmax)) := rfl
@[simp] theorem exec_setvmax (v : Byte) : exec (.setvmax v) s
    = .next ((s.withCtx { s.ctx with vmax := v }).respond .ok .none) := rfl

end

theorem execAll_cons {i : Instr} {rest : List Instr} {s t : State} (h : exec i s = .next t) :
    execAll (i :: rest) s = execAll rest t := by
  simp [execAll, h]

theorem execAll_append {xs ys : List Instr} {s t : State} (h : execAll xs s = .next t) :
    execAll (xs ++ ys) s = execAll ys t := by
  induction xs generalizing s with
  | nil => simp only [execAll, Host.Outcome.next.injEq] at h; simp [h]
  | cons i rest ih =>
    simp only [execAll, List.cons_append] at h ⊢
    cases hi : exec i s with
    | next s' => rw [hi] at h; exact ih h
    | fault r => cases r
    | refused r => rw [hi] at h; cases h

end Sys2Proof.Machine
end

