-- ==== Sys2Proof/Laws/PerInstr.lean ====
section
/-! SUPPORT. The family OpcodeByte: of each command, its encoded word carries its opcode byte in `cmd[7:0]` and an
instruction of the same opcode is read back from it. -/

namespace Sys2Proof.Laws.OpcodeByte

/-- The command's word begins with its opcode, and decodes to a command of that opcode. -/
def Statement (i : Instr) : Prop :=
  opcodeOf (encode i) = opcode i ∧ ∃ j, decode (encode i) = .ok j ∧ opcode j = opcode i

theorem feed (level : Bit) (dur : Dur) : Statement (.feed level dur) :=
  ⟨opcodeOf_encode _, by simp [decode, opcodeOf_encode, opcode]⟩

theorem drst : Statement .drst :=
  ⟨opcodeOf_encode _, by simp [decode, opcodeOf_encode, opcode]⟩

theorem rdrec : Statement .rdrec :=
  ⟨opcodeOf_encode _, by simp [decode, opcodeOf_encode, opcode]⟩

theorem hash : Statement .hash :=
  ⟨opcodeOf_encode _, by simp [decode, opcodeOf_encode, opcode]⟩

theorem fwid (v : Byte) : Statement (.fwid v) :=
  ⟨opcodeOf_encode _, by simp [decode, opcodeOf_encode, opcode]⟩

theorem split (data : Data) : Statement (.split data) :=
  ⟨opcodeOf_encode _, by simp [decode, opcodeOf_encode, opcode]⟩

theorem pack (serial : Data) (button : Byte) (wsel : Bit) : Statement (.pack serial button wsel) :=
  ⟨opcodeOf_encode _, by simp [decode, opcodeOf_encode, opcode]⟩

theorem remap (orig dir : Byte) (wsel : Bit) : Statement (.remap orig dir wsel) :=
  ⟨opcodeOf_encode _, by simp [decode, opcodeOf_encode, opcode]⟩

theorem config (serial : Data) (button bits : Byte) (te : Dur) (teP : Bit) (guard : Dur) (guardP : Bit) (rep : Dur) (repP : Bit) : Statement (.config serial button bits te teP guard guardP rep repP) :=
  ⟨opcodeOf_encode _, by simp [decode, opcodeOf_encode, opcode]⟩

theorem next : Statement .next :=
  ⟨opcodeOf_encode _, by simp [decode, opcodeOf_encode, opcode]⟩

theorem stop : Statement .stop :=
  ⟨opcodeOf_encode _, by simp [decode, opcodeOf_encode, opcode]⟩

theorem getorig : Statement .getorig :=
  ⟨opcodeOf_encode _, by simp [decode, opcodeOf_encode, opcode]⟩

theorem setorig (v : Byte) : Statement (.setorig v) :=
  ⟨opcodeOf_encode _, by simp [decode, opcodeOf_encode, opcode]⟩

theorem getvbtn : Statement .getvbtn :=
  ⟨opcodeOf_encode _, by simp [decode, opcodeOf_encode, opcode]⟩

theorem setvbtn (v : Byte) : Statement (.setvbtn v) :=
  ⟨opcodeOf_encode _, by simp [decode, opcodeOf_encode, opcode]⟩

theorem getvmax : Statement .getvmax :=
  ⟨opcodeOf_encode _, by simp [decode, opcodeOf_encode, opcode]⟩

theorem setvmax (v : Byte) : Statement (.setvmax v) :=
  ⟨opcodeOf_encode _, by simp [decode, opcodeOf_encode, opcode]⟩

end Sys2Proof.Laws.OpcodeByte
end

