-- ==== Sys2Proof/Tests/Slice0.lean ====
section
/-! SUPPORT. Small tests of the model, and a witness for the hypotheses of every statement. Expected results come from the
spec: the vectors L1-x, V30-x, V40-x to V44-x and P4 of 95_test_vectors.md, or the rule named, worked out by hand. -/

open Sys2Proof Sys2Proof.Machine Sys2Proof.Claims

namespace Sys2Proof.Tests

/-! ## Helpers -/

/-- The state an instruction leaves; `none` for a fault or a refusal. -/
def after (i : Instr) (s : State) : Option State :=
  match exec i s with
  | .next t => some t
  | .fault _ => none
  | .refused _ => none

/-- The state a step leaves. -/
def afterStep (s : State) : Option State :=
  match step s with
  | .next t => some t
  | .fault _ => none
  | .refused _ => none

/-- The responses an instruction gives in a state that has given none. -/
def answer (i : Instr) (s : State) : Option (List Response) := (after i { s with responses := [] }).map (·.responses)

/-- The reset state with other decoder registers. -/
def decoderAt (d : DecRegs) : State := { State.reset with dec := d }

/-- The decoder in ArmedLow at the end of the second frame of L1-1(b). -/
def secondBoundary : State := decoderAt ⟨.armedLow, 0xA1B2C3, 24, 0xA1B2C3, 37830, 390⟩

/-- The record of L1-1(b). -/
def recorded : State := { State.reset with record := ⟨0xA1B2C3, 24, 390, 30⟩ }

/-- An encoder of two entries in the middle of its only pass. -/
def playingAt (cur : Byte) (rep : Dur) (run : Bit) : State :=
  { State.reset with enc := ⟨[⟨1, 390⟩, ⟨0, 11700⟩], 2, cur, rep, run⟩ }

/-- `CFG` of 95_test_vectors.md section 2.4. -/
def cfg : Instr := .config 0x1234 0xF 24 390 1 30 1 1 1

/-! ## WellFormed refuses -/

theorem test_wf_level_needs_one_bit : (AsmLine.feed 2 390).wellFormed = false := by decide
theorem test_wf_duration_needs_32_bits : (AsmLine.feed 1 (2 ^ 32)).wellFormed = false := by decide
theorem test_wf_largest_feed : (AsmLine.feed 1 (2 ^ 32 - 1)).wellFormed = true := by decide
theorem test_wf_fwid_needs_8_bits : (AsmLine.fwid 256).wellFormed = false := by decide
theorem test_wf_split_needs_64_bits : (AsmLine.split (2 ^ 64)).wellFormed = false := by decide
theorem test_wf_pack_operands : (AsmLine.pack (2 ^ 64) 0 0).wellFormed = false
    ∧ (AsmLine.pack 0 256 0).wellFormed = false ∧ (AsmLine.pack 0 0 2).wellFormed = false := by decide
theorem test_wf_remap_operands : (AsmLine.remap 256 0 0).wellFormed = false
    ∧ (AsmLine.remap 0 256 0).wellFormed = false ∧ (AsmLine.remap 0 0 2).wellFormed = false := by decide
theorem test_wf_config_operands : (AsmLine.config (2 ^ 64) 0 0 0 0 0 0 0 0).wellFormed = false
    ∧ (AsmLine.config 0 256 0 0 0 0 0 0 0).wellFormed = false ∧ (AsmLine.config 0 0 256 0 0 0 0 0 0).wellFormed = false
    ∧ (AsmLine.config 0 0 0 (2 ^ 32) 0 0 0 0 0).wellFormed = false ∧ (AsmLine.config 0 0 0 0 2 0 0 0 0).wellFormed = false
    ∧ (AsmLine.config 0 0 0 0 0 (2 ^ 32) 0 0 0).wellFormed = false ∧ (AsmLine.config 0 0 0 0 0 0 2 0 0).wellFormed = false
    ∧ (AsmLine.config 0 0 0 0 0 0 0 (2 ^ 32) 0).wellFormed = false
    ∧ (AsmLine.config 0 0 0 0 0 0 0 0 2).wellFormed = false := by decide
theorem test_wf_named_config_operands : (AsmLine.configNamed (2 ^ 64) 0 0 none none none).wellFormed = false
    ∧ (AsmLine.configNamed 0 256 0 none none none).wellFormed = false
    ∧ (AsmLine.configNamed 0 0 256 none none none).wellFormed = false
    ∧ (AsmLine.configNamed 0 0 0 (some (2 ^ 32)) none none).wellFormed = false
    ∧ (AsmLine.configNamed 0 0 0 none (some (2 ^ 32)) none).wellFormed = false
    ∧ (AsmLine.configNamed 0 0 0 none none (some (2 ^ 32))).wellFormed = false
    ∧ (AsmLine.configNamed 0 0 0 none none none).wellFormed = true := by decide
theorem test_wf_context_operands : (AsmLine.setorig 256).wellFormed = false ∧ (AsmLine.setvbtn 256).wellFormed = false
    ∧ (AsmLine.setvmax 256).wellFormed = false := by decide
theorem test_wf_pseudo_operands : (AsmLine.cell 2 390).wellFormed = false
    ∧ (AsmLine.cell 1 1431655766).wellFormed = false ∧ (AsmLine.stopp (2 ^ 32)).wellFormed = false
    ∧ (AsmLine.gap (2 ^ 32)).wellFormed = false ∧ (AsmLine.frame 0 1431655766 1).wellFormed = false
    ∧ (AsmLine.frame 0 65536 65536).wellFormed = false := by decide
theorem test_wf_config_values : prn.wellFormed = true ∧ { prn with minBits := 65 }.wellFormed = false
    ∧ { prn with guardMin := 31 }.wellFormed = false ∧ { prn with guardMax := 29 }.wellFormed = false
    ∧ { prn with guardMax := 256 }.wellFormed = false ∧ { prn with sentinels := [0x30] }.wellFormed = false
    ∧ { prn with encCapacity := 256 }.wellFormed = false := by decide

/-! ## Decoding: words written out from R81 and R84, the field places of log entry 3 -/

theorem test_decode_feed : decode (BitVec.ofNat 187 (0x00 + 1 * 2 ^ 8 + 390 * 2 ^ 9)) = .ok (.feed 1 390) := by decide
theorem test_decode_feed_low : decode (BitVec.ofNat 187 (0x00 + 0 * 2 ^ 8 + 0x80000001 * 2 ^ 9))
    = .ok (.feed 0 0x80000001) := by decide
theorem test_decode_drst : decode (BitVec.ofNat 187 0x01) = .ok .drst := by decide
theorem test_decode_rdrec : decode (BitVec.ofNat 187 0x02) = .ok .rdrec := by decide
theorem test_decode_hash : decode (BitVec.ofNat 187 0x03) = .ok .hash := by decide
theorem test_decode_fwid : decode (BitVec.ofNat 187 (0x10 + 0xC0 * 2 ^ 8)) = .ok (.fwid 0xC0) := by decide
theorem test_decode_split : decode (BitVec.ofNat 187 (0x11 + 0x8000000000012330 * 2 ^ 8))
    = .ok (.split 0x8000000000012330) := by decide
theorem test_decode_pack : decode (BitVec.ofNat 187 (0x12 + 0x1234 * 2 ^ 8 + 0x0C * 2 ^ 72 + 1 * 2 ^ 80))
    = .ok (.pack 0x1234 0x0C 1) := by decide
theorem test_decode_remap : decode (BitVec.ofNat 187 (0x13 + 0x30 * 2 ^ 8 + 2 * 2 ^ 16 + 1 * 2 ^ 24))
    = .ok (.remap 0x30 2 1) := by decide
theorem test_decode_config : decode (BitVec.ofNat 187 (0x20 + 0x1234 * 2 ^ 8 + 0xF * 2 ^ 72 + 24 * 2 ^ 80 + 390 * 2 ^ 88
      + 1 * 2 ^ 120 + 30 * 2 ^ 121 + 1 * 2 ^ 153 + 7 * 2 ^ 154 + 0 * 2 ^ 186))
    = .ok (.config 0x1234 0xF 24 390 1 30 1 7 0) := by decide
theorem test_decode_next : decode (BitVec.ofNat 187 0x21) = .ok .next := by decide
theorem test_decode_stop : decode (BitVec.ofNat 187 0x22) = .ok .stop := by decide
theorem test_decode_getorig : decode (BitVec.ofNat 187 0x30) = .ok .getorig := by decide
theorem test_decode_setorig : decode (BitVec.ofNat 187 (0x31 + 0xC0 * 2 ^ 8)) = .ok (.setorig 0xC0) := by decide
theorem test_decode_getvbtn : decode (BitVec.ofNat 187 0x32) = .ok .getvbtn := by decide
theorem test_decode_setvbtn : decode (BitVec.ofNat 187 (0x33 + 3 * 2 ^ 8)) = .ok (.setvbtn 3) := by decide
theorem test_decode_getvmax : decode (BitVec.ofNat 187 0x34) = .ok .getvmax := by decide
theorem test_decode_setvmax : decode (BitVec.ofNat 187 (0x35 + 9 * 2 ^ 8)) = .ok (.setvmax 9) := by decide

/-- The ends of the five reserved ranges of R85. -/
theorem test_decode_reserved : ([0x04, 0x0F, 0x14, 0x1F, 0x23, 0x2F, 0x36, 0x3F, 0x40, 0xFF] : List Byte).all
    (fun op => decode (op.setWidth 187) == .error (.reservedOpcode op)) = true := by decide

/-- The encoder writes the word of `test_decode_config`. -/
theorem test_encode_config : encode (.config 0x1234 0xF 24 390 1 30 1 7 0) = BitVec.ofNat 187 (0x20 + 0x1234 * 2 ^ 8
    + 0xF * 2 ^ 72 + 24 * 2 ^ 80 + 390 * 2 ^ 88 + 1 * 2 ^ 120 + 30 * 2 ^ 121 + 1 * 2 ^ 153 + 7 * 2 ^ 154) := by decide

theorem test_decodeTableWord : decodeTableWord 8 0x00 = some (.feed 0 0) ∧ decodeTableWord 8 0x35 = some (.setvmax 0)
    ∧ decodeTableWord 8 0x04 = none := by decide

theorem test_withFetchWord : afterStep (State.reset.withFetchWord 8 0x34)
    = some { State.reset with responses := [⟨.ok, .value 4⟩] } := by decide

theorem test_reserved_step : afterStep (State.reset.withFetchWord 8 0x04)
    = some { State.reset with responses := [⟨.illegal, .none⟩] } := by decide

theorem test_issue_order : (afterStep (State.reset.issue [encode .getvmax, encode .hash])).map (·.pending)
    = some [encode .hash] := by decide

/-! ## Classifier and integer laws: V40-1 to V40-33 -/

theorem test_windows_edges : isShort prn 90 = false ∧ isShort prn 91 = true ∧ isShort prn 689 = true
    ∧ isShort prn 690 = false ∧ isLong prn 270 = false ∧ isLong prn 271 = true ∧ isLong prn 2069 = true
    ∧ isLong prn 2070 = false := by decide
theorem test_preamble_and_gap_edges : isPreamble prn 3240 = false ∧ isPreamble prn 3241 = true
    ∧ isPreamble prn 24839 = true ∧ isPreamble prn 24840 = false ∧ isGap prn 2339 = false ∧ isGap prn 2340 = true
    ∧ isGap prn 0xFFFFFFFF = true := by decide
theorem test_guardRaw : guardRaw prn 5654 390 = 14 ∧ guardRaw prn 5655 390 = 15 ∧ guardRaw prn 28274 390 = 72
    ∧ guardRaw prn 28275 390 = 73 ∧ guardRaw prn 11700 0 = 30 := by decide
theorem test_guardFix : guardFix prn 14 = 30 ∧ guardFix prn 15 = 15 ∧ guardFix prn 72 = 72 ∧ guardFix prn 73 = 30 := by
  decide
theorem test_timeUnit : timeUnit 37926 24 = 390 ∧ timeUnit 37927 24 = 391 := by decide
theorem test_wraps : addDuration 0xFFFFFF00 0x200 = 0x100 ∧ shiftIn 0x8000000000000000 1 = 1 ∧ countBit 255 = 0
    ∧ longPulse 0x80000000 = 0x80000000 := by decide

/-! ## Frame Decoder -/

/-- V42-3. -/
theorem test_feed_preamble : (after (.feed 0 3241) (decoderAt ⟨.idle, 5, 3, 7, 9, 11⟩)).map (·.dec)
    = some ⟨.armedHigh, 0, 0, 7, 0, 11⟩ := by decide
/-- V42-10. -/
theorem test_feed_bit_one : (after (.feed 0 390) (decoderAt ⟨.armedLow, 5, 3, 7, 1170, 1170⟩)).map (·.dec)
    = some ⟨.armedHigh, 0xB, 4, 7, 1560, 1170⟩ := by decide
/-- V42-11: both windows hold, bit 0 wins. -/
theorem test_feed_overlap_is_zero : (after (.feed 0 390) (decoderAt ⟨.armedLow, 1, 0, 0, 0, 390⟩)).map (·.dec.acc)
    = some 2 := by decide
/-- V42-16: a misfit adds nothing to the sum. -/
theorem test_feed_misfit : (after (.feed 0 2070) (decoderAt ⟨.armedLow, 1, 1, 0, 390, 390⟩)).map (·.dec)
    = some ⟨.idle, 1, 1, 0, 390, 390⟩ := by decide
/-- V42-19: the finalize, whose raw guard ratio 6 is replaced. -/
theorem test_feed_finalize : (after (.feed 0 2340) secondBoundary).map (fun t => (t.record, t.dec, t.responses))
    = some (⟨0xA1B2C3, 24, 390, 30⟩, ⟨.armedHigh, 0, 0, 0xA1B2C3, 0, 390⟩, [⟨.ok, .found 1⟩]) := by decide
/-- V42-18, both values of PREV_UPDATE. -/
theorem test_prev_update : (feedRegs prn 0 2340 ⟨.armedLow, 0x1F, 5, 0x77, 0, 0⟩ State.reset.record).dec.prev = 0x1F
    ∧ (feedRegs { prn with prevUpdate := .fullOnly } 0 2340 ⟨.armedLow, 0x1F, 5, 0x77, 0, 0⟩
        State.reset.record).dec.prev = 0x77 := by decide
/-- V42-29. -/
theorem test_drst : (after .drst { secondBoundary with record := recorded.record }).map (fun t => (t.dec, t.record))
    = some (⟨.idle, 0, 0, 0, 0, 0⟩, ⟨0xA1B2C3, 24, 390, 30⟩) := by decide
/-- V42-30 and P2. -/
theorem test_rdrec : answer .rdrec State.reset = some [⟨.ok, .record 0 0 0 30⟩]
    ∧ answer .rdrec recorded = some [⟨.ok, .record 0xA1B2C3 24 390 30⟩] := by decide
/-- V42-31, V42-32. -/
theorem test_hash : answer .hash State.reset = some [⟨.ok, .hash 0⟩] ∧ answer .hash recorded = some [⟨.ok, .hash 0xD0⟩] := by
  decide

/-! ## Button Codec -/

/-- V41-3, V41-5. -/
theorem test_fwid : answer (.fwid 0x03) State.reset = some [⟨.ok, .width 1⟩]
    ∧ answer (.fwid 0x0F) State.reset = some [⟨.ok, .width 0⟩] := by decide
/-- V41-9, V41-10, V41-16. -/
theorem test_split : answer (.split 0x12330) State.reset = some [⟨.ok, .split 0x123 0x30 1⟩]
    ∧ answer (.split 0x130) State.reset = some [⟨.ok, .split 0x1 0x30 1⟩]
    ∧ answer (.split 0xFFFFFFFFFFFFFFFF) State.reset = some [⟨.ok, .split 0x0FFFFFFFFFFFFFFF 0x0F 0⟩] := by decide
/-- V41-19, V41-20. -/
theorem test_pack : answer (.pack 0x10 0xAB 0) State.reset = some [⟨.ok, .data 0x1AB⟩]
    ∧ answer (.pack 0xFFFFFFFFFFFFFFFF 0 1) State.reset = some [⟨.ok, .data 0xFFFFFFFFFFFFFF00⟩] := by decide
/-- V41-21, V41-23, V41-24. -/
theorem test_remap : answer (.remap 0x30 0 1) State.reset = some [⟨.ok, .button 0x30⟩]
    ∧ answer (.remap 0x07 9 0) State.reset = some [⟨.ok, .button 0x07⟩]
    ∧ answer (.remap 0x07 5 0) State.reset = some [⟨.ok, .button 0x07⟩] := by decide

/-- A table with one entry, the one of V43-18. -/
def oneEntry : Config :=
  { prn with remapTable := fun d w o => if d = .up ∧ w = 0 ∧ o = 0x0F then some 0x03 else none }

/-- V41-25. -/
theorem test_remap_table : remapButton oneEntry 0x0F 1 0 = 0x03 ∧ remapButton oneEntry 0x0F 2 0 = 0x0F
    ∧ remapButton oneEntry 0x0F 1 1 = 0x0F := by decide

/-! ## Frame Encoder -/

/-- V43-6. -/
theorem test_config : (after cfg State.reset).map (fun t => (t.enc.len, t.enc.cur, t.enc.rep, t.enc.run, t.ctx))
    = some (50, 0, 1, 1, ⟨0x0F, 0, 4⟩) := by decide
/-- P1: the bits of 0x01234F at entries 0 and 14, the stop pulse and the guard gap. -/
theorem test_config_sequence : (after cfg State.reset).map
      (fun t => [0, 14, 15, 48, 49, 50].map (t.enc.seq[·]?))
    = some [some ⟨1, 390⟩, some ⟨1, 1170⟩, some ⟨0, 390⟩, some ⟨1, 390⟩, some ⟨0, 11700⟩, none] := by decide
/-- V43-1 to V43-4: nothing written, missing TE first. -/
theorem test_config_failures : after (.config 0x1234 0xF 24 390 0 30 1 1 1) State.reset
      = some { State.reset with responses := [⟨.errMissingTe, .none⟩] }
    ∧ after (.config 0x1234 0xF 0 390 1 30 1 1 1) State.reset
      = some { State.reset with responses := [⟨.errBitCount, .none⟩] }
    ∧ answer (.config 0x1234 0xF 23 390 0 30 1 1 1) State.reset = some [⟨.errMissingTe, .none⟩] := by decide
/-- V43-5. -/
theorem test_config_capacity : State.reset.configure { prn with encCapacity := 40 } 0x1234 0xF 24 390 1 30 1 1 1
    = { State.reset with responses := [⟨.errCapacity, .none⟩] } := by decide
/-- V43-7 to V43-12. -/
theorem test_config_guard_and_repeat : configGuard prn 14 1 = 30 ∧ configGuard prn 15 1 = 15 ∧ configGuard prn 72 1 = 72
    ∧ configGuard prn 73 1 = 30 ∧ configGuard prn 15 0 = 30 ∧ configRepeat prn 3 1 = 3 ∧ configRepeat prn 3 0 = 10 := by
  decide
/-- V43-15, V43-17, V43-18, V43-19. -/
theorem test_config_word : configWord prn ⟨0, 0, 4⟩ 0x1234 0x03 = 0x123403
    ∧ configWord prn ⟨0x30, 0, 4⟩ 0x1234 0x0F = 0x123430 ∧ configWord oneEntry ⟨0, 1, 4⟩ 0x1234 0x0F = 0x123403
    ∧ configWord oneEntry ⟨0, 2, 4⟩ 0x1234 0x0F = 0x1234F := by decide
/-- V43-24 in small: the last pulse of the last repeat leaves `ENC_RUN` set. -/
theorem test_next_wraps : (after .next (playingAt 1 1 1)).map (fun t => (t.enc.cur, t.enc.rep, t.enc.run, t.responses))
    = some (0, 0, 1, [⟨.ok, .pulse 1 0 11700⟩]) := by decide
/-- V43-24 in small: then NEXT finds the sequence exhausted. -/
theorem test_next_finished : (after .next (playingAt 0 0 1)).map (fun t => (t.enc.cur, t.enc.run, t.responses))
    = some (0, 0, [⟨.ok, .pulse 0 0 0⟩]) := by decide
/-- V43-25. -/
theorem test_stop : (after .stop (playingAt 1 3 1)).map (fun t => (t.enc.cur, t.enc.rep, t.enc.run)) = some (1, 3, 0) := by
  decide

/-! ## Button context -/

/-- V44-1. -/
theorem test_context_reads : answer .getorig State.reset = some [⟨.ok, .value 0⟩]
    ∧ answer .getvbtn State.reset = some [⟨.ok, .value 0⟩] ∧ answer .getvmax State.reset = some [⟨.ok, .value 4⟩] := by
  decide
/-- V44-2, V44-3. -/
theorem test_setvbtn : (after (.setvbtn 4) State.reset).map (fun t => (t.ctx.vbtn, t.responses)) = some (4, [⟨.ok, .none⟩])
    ∧ after (.setvbtn 5) State.reset = some { State.reset with responses := [⟨.errRange, .none⟩] } := by decide
/-- V44-6. -/
theorem test_setorig : (after (.setorig 0xC0) State.reset).map (·.ctx) = some ⟨0xC0, 0, 4⟩ := by decide
/-- R235: a virtual button above the new maximum is kept. -/
theorem test_setvmax : (after (.setvmax 2) { State.reset with ctx := ⟨0, 6, 7⟩ }).map (·.ctx) = some ⟨0, 6, 2⟩ := by decide

/-! ## Assembler -/

theorem test_assemble_feed : assembleLine "FEED 1, 0x1F4 ; half a millisecond".toList = some [.feed 1 500] := by decide
/-- L1-3: TE left out. -/
theorem test_assemble_config : assembleLine "CONFIG serial=0x1234, button=0xF, bits=24, guard=30, rep=1".toList
    = some [.config 0x1234 0xF 24 0 0 30 1 1 1] := by decide
theorem test_assemble_pseudo : assembleLine "PRE".toList = some [.feed 0 14040]
    ∧ assembleLine "CELL 1, 390".toList = some [.feed 1 1170, .feed 0 390]
    ∧ (assembleLine "FRAME 0xA1B2C3, 390, 30".toList).map List.length = some 50 := by decide
theorem test_assemble_refuses : assembleLine "FEED 2, 390".toList = none ∧ assembleLine "FOO".toList = none
    ∧ assembleLine "; only a comment".toList = some [] := by decide

/-! ## Witnesses: states and operands that meet the hypotheses of the statements -/

/-- Clause 1 at te = 0, clause 2 at te = 1. -/
theorem witness_GuardEstimateIsNearest : (0 : Dur).toNat = 0 ∧ (1 : Dur).toNat ≠ 0 := by decide

theorem witness_GuardCorrectionReplaces : (15 ≤ 15 ∧ 72 ≤ 72) ∧ (14 < 15 ∨ 72 < 14) ∧ (73 < 15 ∨ 72 < 73) := by decide

/-- At both ends of the window. -/
theorem witness_FeedIdlePreamble : State.reset.dec.state = .idle ∧ 3241 ≤ (3241 : Dur).toNat ∧ (3241 : Dur).toNat ≤ 24839
    ∧ 3241 ≤ (24839 : Dur).toNat ∧ (24839 : Dur).toNat ≤ 24839 := by decide

/-- A high event, and low events just outside the window. -/
theorem witness_FeedIdleOther : State.reset.dec.state = .idle
    ∧ ((1 : Bit) = 1 ∨ (14040 : Dur).toNat < 3241 ∨ 24839 < (14040 : Dur).toNat)
    ∧ ((0 : Bit) = 1 ∨ (3240 : Dur).toNat < 3241 ∨ 24839 < (3240 : Dur).toNat)
    ∧ ((0 : Bit) = 1 ∨ (24840 : Dur).toNat < 3241 ∨ 24839 < (24840 : Dur).toNat) := by decide

theorem witness_FeedArmedHigh : (decoderAt ⟨.armedHigh, 0, 0, 0, 0, 0⟩).dec.state = .armedHigh := by decide

theorem witness_FeedArmedLowHighGoesIdle : secondBoundary.dec.state = .armedLow := by decide

/-- Bit 0 at the window edges (91, 2069) and in the overlap (271, 271). -/
theorem witness_FeedArmedLowAppendsBit_zero : (decoderAt ⟨.armedLow, 0, 0, 0, 0, 91⟩).dec.state = .armedLow
    ∧ (2069 : Dur).toNat < 2340 ∧ ((0 : Bit) = 0 ∧ InShort 91 ∧ InLong 2069) ∧ ((0 : Bit) = 0 ∧ InShort 271 ∧ InLong 271) := by
  decide

/-- Bit 1 at the window edges: (2069, 689) and (690, 91). -/
theorem witness_FeedArmedLowAppendsBit_one : (decoderAt ⟨.armedLow, 0, 0, 0, 0, 2069⟩).dec.state = .armedLow
    ∧ (689 : Dur).toNat < 2340
    ∧ ((1 : Bit) = 1 ∧ ¬(InShort 2069 ∧ InLong 689) ∧ InLong 2069 ∧ InShort 689)
    ∧ ((1 : Bit) = 1 ∧ ¬(InShort 690 ∧ InLong 91) ∧ InLong 690 ∧ InShort 91) := by decide

/-- V42-16 and V42-17, and the last duration below the boundary. -/
theorem witness_FeedArmedLowMisfitGoesIdle : (decoderAt ⟨.armedLow, 0, 0, 0, 0, 390⟩).dec.state = .armedLow
    ∧ (2339 : Dur).toNat < 2340 ∧ ¬(InShort 390 ∧ InLong 2339) ∧ ¬(InLong 390 ∧ InShort 2339)
    ∧ ¬(InShort 390 ∧ InLong 2070) ∧ ¬(InLong 390 ∧ InShort 2070)
    ∧ ¬(InShort 90 ∧ InLong 1170) ∧ ¬(InLong 90 ∧ InShort 1170) := by decide

/-- A boundary that finalizes and, at DEC_CNT = 0, one that does not. -/
theorem witness_FeedBoundary : secondBoundary.dec.state = .armedLow ∧ 2340 ≤ (2340 : Dur).toNat
    ∧ (secondBoundary.dec.cnt = 24 ∧ secondBoundary.dec.acc = secondBoundary.dec.prev ∧ secondBoundary.dec.prev ≠ 0)
    ∧ (decoderAt ⟨.armedLow, 0, 0, 0, 0, 390⟩).dec.state = .armedLow
    ∧ ¬(decoderAt ⟨.armedLow, 0, 0, 0, 0, 390⟩).dec.cnt = 24 := by decide

/-- Each value of PREV_UPDATE, with 24 bits and with 25. -/
theorem witness_PreviousFrameUpdate : prn.prevUpdate = .always ∧ isGap prn 2340 = true
    ∧ { prn with prevUpdate := .fullOnly }.prevUpdate = .fullOnly ∧ isGap { prn with prevUpdate := .fullOnly } 2340 = true
    ∧ secondBoundary.dec.state = .armedLow ∧ secondBoundary.dec.cnt.toNat = { prn with prevUpdate := .fullOnly }.minBits
    ∧ (25 : Byte).toNat ≠ { prn with prevUpdate := .fullOnly }.minBits := by decide

/-- A configuration whose long window reaches the gap 2340 (V43's te does not). -/
theorem witness_GapNeverClassifies : secondBoundary.dec.state = .armedLow ∧ isGap { prn with longTolMult := 4 } 2340 = true
    ∧ isLong { prn with longTolMult := 4 } 2340 = true ∧ isShort { prn with longTolMult := 4 } secondBoundary.dec.tlast = true := by
  decide

/-- A response with `found = 1` (its state has a guard ratio in range), and one without. -/
theorem witness_RecordWrittenOnlyByFinalize : answer (.feed 0 2340) secondBoundary = some [⟨.ok, .found 1⟩]
    ∧ (15 ≤ secondBoundary.record.guard.toNat ∧ secondBoundary.record.guard.toNat ≤ 72)
    ∧ answer .drst secondBoundary = some [⟨.ok, .none⟩] := by decide

/-- The codes at the ends of each clause, a table entry and an absent one. -/
theorem witness_RemapForEveryTable : (0 : Byte) = 0 ∧ 5 ≤ (5 : Byte).toNat ∧ 5 ≤ (255 : Byte).toNat
    ∧ ((Direction.up = .up ∧ (1 : Byte) = 1) ∧ oneEntry.remapTable .up 0 0x0F = some 0x03)
    ∧ ((Direction.right = .right ∧ (4 : Byte) = 4) ∧ oneEntry.remapTable .right 0 0x0F = none) := by decide

/-- A sentinel, a pair of the 4-bit law and a pair it leaves out (V41-10). -/
theorem witness_PackSplitRoundTrip : IsSentinel 0x0C
    ∧ ((0xF : Byte).toNat ≤ 0xF ∧ ¬IsSentinel (BitVec.ofNat 8 ((((0x1234 : Data).toNat % 16) <<< 4) ||| (0xF : Byte).toNat)))
    ∧ IsSentinel (BitVec.ofNat 8 ((((0x13 : Data).toNat % 16) <<< 4) ||| (0 : Byte).toNat)) := by decide

theorem witness_FailedConfigWritesNothing : ((0 : Bit) = 0 ∨ (24 : Byte) ≠ 24) ∧ ((1 : Bit) = 0 ∨ (23 : Byte) ≠ 24)
    ∧ ((1 : Bit) = 0 ∨ (25 : Byte) ≠ 24) := by decide

/-- Each clause: the capacity fails at 49 entries and holds at 50. -/
theorem witness_ConfigValidationOrder : (24 : Byte).toNat = { prn with encCapacity := 49 }.minBits
    ∧ { prn with encCapacity := 49 }.encCapacity < 2 * (24 : Byte).toNat + 2 ∧ 2 * (24 : Byte).toNat + 2 ≤ prn.encCapacity
    ∧ (23 : Byte).toNat ≠ prn.minBits := by decide

/-- Finished for either reason, and a pulse at the last entry. -/
theorem witness_NextReturnsPulseAtCursor : ((playingAt 0 0 1).enc.rep = 0 ∨ (playingAt 0 0 1).enc.run = 0)
    ∧ ((playingAt 1 3 0).enc.rep = 0 ∨ (playingAt 1 3 0).enc.run = 0)
    ∧ ((playingAt 1 1 1).enc.rep ≠ 0 ∧ (playingAt 1 1 1).enc.run = 1
        ∧ (playingAt 1 1 1).enc.seq[(playingAt 1 1 1).enc.cur.toNat]? = some ⟨0, 11700⟩
        ∧ (playingAt 1 1 1).enc.cur.toNat + 1 = (playingAt 1 1 1).enc.len.toNat) := by decide

/-- Commands after a STOP that are no successful CONFIG, and a repeat count for the one that is. -/
theorem witness_StopIsFinalUntilConfig : after .stop (playingAt 1 3 1) = some { playingAt 1 3 0 with responses := [⟨.ok, .none⟩] }
    ∧ (∀ i ∈ [Instr.next, .stop, .feed 0 14040, .setvmax 9, .config 0x1234 0xF 23 390 1 30 1 1 1], isGoodConfig i = false)
    ∧ (1 : Dur) ≠ 0 := by decide

theorem witness_SequenceImmutableBetweenConfigs : (∀ i ∈ [Instr.next, .setorig 1, .config 0 0 24 390 0 30 1 1 1],
    isGoodConfig i = false) ∧ isGoodConfig cfg = true ∧ (1 : Dur) ≠ 0 := by decide

theorem witness_VirtualButtonWrite : (4 : Byte).toNat ≤ State.reset.ctx.vmax.toNat
    ∧ State.reset.ctx.vmax.toNat < (5 : Byte).toNat := by decide

theorem witness_OpcodeMap : decode (0x21 : Command) = .ok .next := by decide

theorem witness_StepRunsDecodedCommand : (State.reset.issue [0x02, 0x01]).pending = 0x02 :: [0x01]
    ∧ decode (0x02 : Command) = .ok .rdrec := by decide

theorem witness_StepWithoutCommand : State.reset.pending = [] := by decide

/-- The ends of the reserved ranges, and defined opcodes next to them. -/
theorem witness_ReservedOpcodesAreIllegal : (State.reset.issue [0x40]).pending = 0x40 :: []
    ∧ (∀ op ∈ ([0x04, 0x0F, 0x14, 0x1F, 0x23, 0x2F, 0x36, 0x3F, 0x40, 0xFF] : List Byte), IsReserved op)
    ∧ (∀ op ∈ ([0x03, 0x10, 0x13, 0x20, 0x22, 0x30, 0x35] : List Byte), ¬IsReserved op)
    ∧ IsReserved (opcodeOf 0x40) := by decide

theorem witness_StatusTable : statusOf (.setvbtn 5) State.reset ≠ .ok ∧ statusOf (.setvbtn 4) State.reset = .ok
    ∧ (24 : Byte).toNat = { prn with encCapacity := 49 }.minBits
    ∧ { prn with encCapacity := 49 }.encCapacity < 2 * (24 : Byte).toNat + 2 := by decide

/-- A running encoder for the first clause; a read with operands for the second. -/
theorem witness_ReadsWithoutSideEffects : (playingAt 0 0 1).enc.run = 1 ∧ IsPureRead .rdrec ∧ IsPureRead (.fwid 3) :=
  ⟨by decide, .inl rfl, .inr (.inr (.inr (.inr (.inr (.inl ⟨3, rfl⟩)))))⟩

/-- RDREC meets every exclusion at once, in a state with an original button. -/
theorem witness_RegistersWrittenOnlyByTheirCommands : (∀ l d, Instr.rdrec ≠ .feed l d) ∧ Instr.rdrec ≠ .drst
    ∧ isGoodConfig .rdrec = false ∧ Instr.rdrec ≠ .next ∧ Instr.rdrec ≠ .stop ∧ (∀ v, Instr.rdrec ≠ .setorig v)
    ∧ (∀ v, Instr.rdrec ≠ .setvbtn v) ∧ (∀ v, Instr.rdrec ≠ .setvmax v)
    ∧ { State.reset with ctx := ⟨0x0F, 0, 4⟩ }.ctx.orig ≠ 0 := by
  simp [isGoodConfig]

/-- A legal state with a command to take, and its step. -/
theorem witness_StepKeepsLegal : (State.reset.issue [0x21]).Legal
    ∧ step (State.reset.issue [0x21]) = .next { State.reset with responses := [⟨.ok, .pulse 0 0 0⟩] } :=
  ⟨by unfold State.Legal RecRegs.Legal EncRegs.Legal; decide, rfl⟩

/-- States that differ in all that each clause allows to differ. -/
theorem witness_DecoderAndEncoderAreIsolated : secondBoundary.dec = { playingAt 1 3 1 with dec := secondBoundary.dec }.dec
    ∧ secondBoundary.record = { playingAt 1 3 1 with dec := secondBoundary.dec }.record
    ∧ secondBoundary.responses = { playingAt 1 3 1 with dec := secondBoundary.dec }.responses
    ∧ State.reset.enc = secondBoundary.enc ∧ State.reset.ctx = secondBoundary.ctx
    ∧ State.reset.responses = secondBoundary.responses := by decide

/-- A finalize, and the longest feed sequence the statement covers. -/
theorem witness_FiftyFeedsBetweenFinalizes : (after (.feed 0 2340) secondBoundary).map (·.responses)
      = some (secondBoundary.responses ++ [⟨.ok, .found 1⟩])
    ∧ (Instr.rdrec :: List.replicate 49 (.feed 1 390)).countP isFeed ≤ 49 := by decide

/-- DRST, and the longest feed sequence the statement covers. -/
theorem witness_DecoderResetHoldsOffFinalize : (after .drst secondBoundary).map (·.dec) = some ⟨.idle, 0, 0, 0, 0, 0⟩
    ∧ (Instr.hash :: List.replicate 54 (.feed 0 14040)).countP isFeed ≤ 54 := by decide

/-- The largest word, te 91 with guard 26, and te 689 with guard 72; the smallest word. -/
theorem witness_OneFrameValidatesAgainstPrevious : 0xFFFFFF ≠ 0 ∧ 0xFFFFFF < 2 ^ 24 ∧ 91 ≤ 91 ∧ 15 ≤ 26 ∧ 2340 ≤ 91 * 26
    ∧ 689 ≤ 689 ∧ 72 ≤ 72 ∧ 2340 ≤ 689 * 72 ∧ (decoderAt ⟨.idle, 0, 0, 0xFFFFFF, 0, 0⟩).dec.state = .idle
    ∧ (decoderAt ⟨.idle, 0, 0, 0xFFFFFF, 0, 0⟩).dec.prev = BitVec.ofNat 64 0xFFFFFF ∧ 1 ≠ 0
    ∧ (decoderAt ⟨.idle, 0, 0, 1, 0, 0⟩).dec.prev = BitVec.ofNat 64 1 := by decide

/-- The state after a preamble, and the ends of the ranges: te 91 with guard 26, te 689 with guard 72, te 156 with guard
15. -/
theorem witness_EncodedFrameDecodesExactly :
    (91 ≤ (91 : Dur).toNat ∧ (91 : Dur).toNat ≤ 689 ∧ 15 ≤ (26 : Dur).toNat ∧ (26 : Dur).toNat ≤ 72
        ∧ 2340 ≤ (91 : Dur).toNat * (26 : Dur).toNat)
      ∧ ((689 : Dur).toNat ≤ 689 ∧ (72 : Dur).toNat ≤ 72) ∧ 2340 ≤ (156 : Dur).toNat * (15 : Dur).toNat
      ∧ (decoderAt ⟨.armedHigh, 0, 0, 5, 0, 0⟩).dec.state = .armedHigh ∧ (decoderAt ⟨.armedHigh, 0, 0, 5, 0, 0⟩).dec.acc = 0
      ∧ (decoderAt ⟨.armedHigh, 0, 0, 5, 0, 0⟩).dec.cnt = 0 ∧ (decoderAt ⟨.armedHigh, 0, 0, 5, 0, 0⟩).dec.sum = 0
      ∧ (decoderAt ⟨.armedHigh, 0, 0, 5, 0, 0⟩).ctx.vbtn = 0
      ∧ (((0x1234 : Data).toNat <<< (if IsSentinel 0xF then 8 else 4)) ||| (0xF : Byte).toNat) % 2 ^ 24 ≠ 0 := by decide

theorem witness_GuardGapSynchronises : 9 ≤ 72 ∧ 64 ≤ 72 ∧ State.reset.dec.state = .idle
    ∧ (after (.feed 0 (BitVec.ofNat 32 (390 * 8))) State.reset).map (·.dec.state) = some .idle
    ∧ (after (.feed 0 (BitVec.ofNat 32 (390 * 9))) State.reset).map (·.dec.state) = some .armedHigh
    ∧ (after (.feed 0 (BitVec.ofNat 32 (390 * 63))) State.reset).map (·.dec.state) = some .armedHigh
    ∧ (after (.feed 0 (BitVec.ofNat 32 (390 * 64))) State.reset).map (·.dec.state) = some .idle := by decide

end Sys2Proof.Tests
end

section
/-! The classifier's windows under the R6 values (R7), and the step with no command pending (R3). -/

namespace Sys2Proof.Machine

/-- The short window of R7: 390 with the tight tolerance 300. -/
theorem isShort_prn_iff (d : Dur) : isShort prn d = true ↔ 91 ≤ d.toNat ∧ d.toNat ≤ 689 := by
  rw [isShort, matchesNominal_iff]
  simp only [prn]
  omega

/-- The long window of R7: 1170 with the wide tolerance 900. -/
theorem isLong_prn_iff (d : Dur) : isLong prn d = true ↔ 271 ≤ d.toNat ∧ d.toNat ≤ 2069 := by
  rw [isLong, matchesNominal_iff]
  simp only [prn]
  omega

/-- The preamble window of R7: 14040 with the tolerance 10800. -/
theorem isPreamble_prn_iff (d : Dur) : isPreamble prn d = true ↔ 3241 ≤ d.toNat ∧ d.toNat ≤ 24839 := by
  rw [isPreamble, matchesNominal_iff]
  simp only [prn]
  omega

/-- The gap threshold of R7: twice the long unit 1170. -/
theorem isGap_prn_iff (d : Dur) : isGap prn d = true ↔ 2340 ≤ d.toNat := isGap_iff prn d

/-- The overlap of R7: from the long window's lower end to the short window's upper end. -/
theorem isShort_and_isLong_prn_iff (d : Dur) :
    isShort prn d = true ∧ isLong prn d = true ↔ 271 ≤ d.toNat ∧ d.toNat ≤ 689 := by
  rw [isShort_prn_iff, isLong_prn_iff]
  omega

/-- Settles O3: the four windows, each from the linear form of a match, and their overlap. -/
theorem classifierWindows : Obligations.ClassifierWindows := fun d =>
  ⟨isShort_prn_iff d, isLong_prn_iff d, isPreamble_prn_iff d, isGap_prn_iff d, isShort_and_isLong_prn_iff d⟩

/-- The host has nothing pending, so the step takes no command (R3; log entry 5). -/
theorem step_of_pending_nil {s : State} (h : s.pending = []) : step s = .next s := by
  rw [step, State.takeCommand_nil h, State.betweenCommands]

/-- Settles O42: nothing is taken from an empty queue, and the state between commands is the state itself. -/
theorem stepWithoutCommand : Obligations.StepWithoutCommand := fun _ => step_of_pending_nil

end Sys2Proof.Machine
end

section
/-! What a command can do to the registers, said once, and the facts of the family 10_state.md that rest on it: which
command writes which register (R20, R31 to R39), the record a finalize writes (R162 to R164), and the invariant. -/

namespace Sys2Proof.Machine

/-! ## The ways a command can end -/

/-- `Effect s i t`: performed in `s`, the command `i` ends in `t`. The first three ways write no register; each of the
others belongs to one command. -/
inductive Effect (s : State) : Instr → State → Prop where
  /-- The nine reads of R68. -/
  | read (i : Instr) (hi : Claims.IsPureRead i) (p : Payload) (hp : ∀ b, p ≠ .found b) : Effect s i (s.respond .ok p)
  /-- A CONFIG that fails (R192). -/
  | configFails (serial : Data) (button bits : Byte) (te : Dur) (teP : Bit) (guard : Dur) (guardP : Bit) (rep : Dur)
      (repP : Bit) (st : Status) (hst : configFailure prn bits teP = some st) :
      Effect s (.config serial button bits te teP guard guardP rep repP) (s.failWith st)
  /-- A SETVBTN above the maximum (R233). -/
  | setvbtnFails (v : Byte) (hv : ¬v.toNat ≤ s.ctx.vmax.toNat) : Effect s (.setvbtn v) (s.failWith .errRange)
  | feed (level : Bit) (dur : Dur) : Effect s (.feed level dur) (s.feed prn level dur)
  | drst : Effect s .drst ((s.withDec ⟨.idle, 0, 0, 0, 0, 0⟩).respond .ok .none)
  /-- A CONFIG that meets no failing condition of R191. -/
  | config (serial : Data) (button : Byte) (te guard : Dur) (guardP : Bit) (rep : Dur) (repP : Bit) :
      Effect s (.config serial button 24 te 1 guard guardP rep repP)
        (((s.withCtx ⟨originalButton s.ctx button, s.ctx.vbtn, 4⟩).withEnc
          (s.enc.configured 24 (buildSequence 24 (configWord prn s.ctx serial button) te (configGuard prn guard guardP))
            (configRepeat prn rep repP))).respond .ok .none)
  | next : Effect s .next s.nextPulse
  | stop : Effect s .stop ((s.withEnc s.enc.clearRun).respond .ok .none)
  | setorig (v : Byte) : Effect s (.setorig v) ((s.withCtx { s.ctx with orig := v }).respond .ok .none)
  | setvbtn (v : Byte) (hv : v.toNat ≤ s.ctx.vmax.toNat) :
      Effect s (.setvbtn v) ((s.withCtx { s.ctx with vbtn := v }).respond .ok .none)
  | setvmax (v : Byte) : Effect s (.setvmax v) ((s.withCtx { s.ctx with vmax := v }).respond .ok .none)

theorem splitWord_ne_found (c : Config) (data : Data) (b : Bit) : splitWord c data ≠ .found b := by
  simp only [splitWord]
  split <;> simp

/-- Under the R6 values CONFIG succeeds exactly with 24 bits and a time unit (R191). -/
theorem configFailure_prn_eq_none {bits : Byte} {teP : Bit} (h : configFailure prn bits teP = none) :
    bits = 24 ∧ teP = 1 := by
  rcases configFailure_cases prn bits teP with ⟨-, hf⟩ | ⟨-, -, hf⟩ | ⟨-, -, -, hf⟩ | ⟨hp, hb, -, -⟩
  · simp [hf] at h
  · simp [hf] at h
  · simp [hf] at h
  · exact ⟨BitVec.eq_of_toNat_eq hb, hp⟩

theorem configure_effect (serial : Data) (button bits : Byte) (te : Dur) (teP : Bit) (guard : Dur) (guardP : Bit)
    (rep : Dur) (repP : Bit) (s : State) :
    Effect s (.config serial button bits te teP guard guardP rep repP)
      (s.configure prn serial button bits te teP guard guardP rep repP) := by
  rcases configure_cases prn serial button bits te teP guard guardP rep repP s with ⟨st, hst, h⟩ | ⟨hn, h⟩
  · rw [h]
    exact .configFails serial button bits te teP guard guardP rep repP st hst
  · obtain ⟨rfl, rfl⟩ := configFailure_prn_eq_none hn
    rw [h]
    exact .config serial button te guard guardP rep repP

/-- Every command answers a next state, in one of the ways above. -/
theorem exec_effect (i : Instr) (s : State) : ∃ t, exec i s = .next t ∧ Effect s i t := by
  cases i with
  | feed level dur => exact ⟨_, rfl, .feed level dur⟩
  | drst => exact ⟨_, rfl, .drst⟩
  | rdrec => exact ⟨_, rfl, .read _ (by simp [Claims.IsPureRead]) _ (by simp)⟩
  | hash => exact ⟨_, rfl, .read _ (by simp [Claims.IsPureRead]) _ (by simp)⟩
  | fwid v => exact ⟨_, rfl, .read _ (by simp [Claims.IsPureRead]) _ (by simp)⟩
  | split data => exact ⟨_, rfl, .read _ (by simp [Claims.IsPureRead]) _ (splitWord_ne_found prn data)⟩
  | pack serial button wsel => exact ⟨_, rfl, .read _ (by simp [Claims.IsPureRead]) _ (by simp)⟩
  | remap orig dir wsel => exact ⟨_, rfl, .read _ (by simp [Claims.IsPureRead]) _ (by simp)⟩
  | config serial button bits te teP guard guardP rep repP =>
    exact ⟨_, rfl, configure_effect serial button bits te teP guard guardP rep repP s⟩
  | next => exact ⟨_, rfl, .next⟩
  | stop => exact ⟨_, rfl, .stop⟩
  | getorig => exact ⟨_, rfl, .read _ (by simp [Claims.IsPureRead]) _ (by simp)⟩
  | setorig v => exact ⟨_, rfl, .setorig v⟩
  | getvbtn => exact ⟨_, rfl, .read _ (by simp [Claims.IsPureRead]) _ (by simp)⟩
  | setvbtn v =>
    rw [exec_setvbtn]
    split
    · next hv => exact ⟨_, rfl, .setvbtn v hv⟩
    · next hv => exact ⟨_, rfl, .setvbtnFails v hv⟩
  | getvmax => exact ⟨_, rfl, .read _ (by simp [Claims.IsPureRead]) _ (by simp)⟩
  | setvmax v => exact ⟨_, rfl, .setvmax v⟩

/-! ## The record -/

theorem Effect.record_eq {s t : State} {i : Instr} (h : Effect s i t) (hi : ∀ l d, i ≠ .feed l d) :
    t.record = s.record := by
  cases h with
  | feed level dur => exact absurd rfl (hi level dur)
  | _ => simp

/-- Only FEED answers with a `found` field, so every other command answers one that is no `found = 1`. -/
theorem Effect.response {s t : State} {i : Instr} (h : Effect s i t) (hi : ∀ l d, i ≠ .feed l d) :
    ∃ r, t.responses = s.responses ++ [r] ∧ ∀ b, r.payload ≠ .found b := by
  cases h with
  | read i _ p hp => exact ⟨⟨.ok, p⟩, rfl, hp⟩
  | configFails => exact ⟨⟨_, .none⟩, rfl, by simp⟩
  | setvbtnFails v => exact ⟨⟨.errRange, .none⟩, rfl, by simp⟩
  | feed level dur => exact absurd rfl (hi level dur)
  | next =>
    rcases nextPulse_cases s with ⟨-, hn⟩ | ⟨-, -, hn⟩
    · exact ⟨⟨.ok, .pulse 0 0 0⟩, by simp [hn], by simp⟩
    · exact ⟨⟨.ok, .pulse 1 s.pulseAtCursor.level s.pulseAtCursor.dur⟩, by simp [hn], by simp⟩
  | _ => exact ⟨⟨.ok, .none⟩, rfl, by simp⟩

theorem guardFix_prn_range (g : Nat) : 15 ≤ guardFix prn g ∧ guardFix prn g ≤ 72 :=
  guardFix_range (c := prn) (by decide) (by decide) g

/-- The guard ratio of a finalize is the corrected one, untruncated, and so in range (R109, R164). -/
theorem finalizedRecord_guard_range (d : DecRegs) (dur : Dur) :
    15 ≤ (finalizedRecord prn d dur).guard.toNat ∧ (finalizedRecord prn d dur).guard.toNat ≤ 72 := by
  have hr := guardFix_prn_range (guardRaw prn dur (timeUnit d.sum d.cnt))
  simp only [finalizedRecord, trunc8, BitVec.toNat_ofNat]
  omega

/-- A frame that validates has 24 bits (R161), so its time unit divides by 97 (R107, R163). -/
theorem finalizedRecord_of_validates {d : DecRegs} (hv : d.validates prn = true) (dur : Dur) :
    finalizedRecord prn d dur
      = { data := d.acc
          bits := d.cnt
          te := BitVec.ofNat 32 (d.sum.toNat / 97)
          guard := BitVec.ofNat 8 (Claims.guardFor dur.toNat (d.sum.toNat / 97)) } := by
  have hc : d.cnt.toNat = 24 := ((DecRegs.validates_iff prn d).mp hv).1
  have hte : (timeUnit d.sum d.cnt).toNat = d.sum.toNat / 97 := by rw [timeUnit_toNat, hc]
  have hg : guardFix prn (guardRaw prn dur (timeUnit d.sum d.cnt))
      = Claims.guardFor dur.toNat (d.sum.toNat / 97) := by rw [guardRaw, hte]; rfl
  rw [finalizedRecord, hg, timeUnit, hc]
  rfl

/-- Settles O16: by R161 to R164 for a FEED that finalizes; every other command keeps the record and answers no
`found = 1`. -/
theorem recordWrittenOnlyByFinalize : Obligations.RecordWrittenOnlyByFinalize := by
  intro i s
  by_cases hi : ∃ l d, i = .feed l d
  · obtain ⟨level, dur, rfl⟩ := hi
    refine ⟨_, _, rfl, rfl, ?_⟩
    rcases feedRegs_record prn level dur s.dec s.record with ⟨hf, hr⟩ | ⟨hf, hr, -, hl, -, hv⟩
    · simp [hf, hr, flagBit]
    · obtain rfl : level = 0 := (bit_zero_or_one level).resolve_right hl
      have hfound := congrArg Payload.found ((flagBit_eq_one _).mpr hf)
      have hrange := finalizedRecord_guard_range s.dec dur
      rw [State.feed_record, hr]
      exact ⟨absurd hfound, fun _ => ⟨⟨dur, rfl, finalizedRecord_of_validates hv dur⟩, hrange⟩, fun _ => hrange⟩
  · have hi' : ∀ l d, i ≠ .feed l d := fun l d h => hi ⟨l, d, h⟩
    obtain ⟨t, ht, he⟩ := exec_effect i s
    obtain ⟨r, hresp, hr⟩ := he.response hi'
    have hrec := he.record_eq hi'
    exact ⟨t, r, ht, hresp, fun _ => hrec, fun h => absurd h (hr 1), fun h => hrec ▸ h⟩

/-! ## Which command writes which register -/

theorem originalButton_of_ne_zero {ctx : CtxRegs} (h : ctx.orig ≠ 0) (button : Byte) :
    originalButton ctx button = ctx.orig := if_neg h

theorem nextPulse_enc_frame (s : State) : s.nextPulse.enc.seq = s.enc.seq ∧ s.nextPulse.enc.len = s.enc.len := by
  rcases nextPulse_cases s with ⟨-, h⟩ | ⟨-, -, h⟩
  · simp [h, EncRegs.clearRun]
  · obtain ⟨hseq, hlen, -⟩ := s.enc.advance_frame
    simp [h, hseq, hlen]

/-- Settles O47: the writes of each way a command can end. -/
theorem registersWrittenOnlyByTheirCommands : Obligations.RegistersWrittenOnlyByTheirCommands := by
  intro i s
  obtain ⟨t, ht, he⟩ := exec_effect i s
  refine ⟨t, ht, ?_⟩
  cases he with
  | config => simpa [isGoodConfig] using fun h => originalButton_of_ne_zero h _
  | next => simp [nextPulse_enc_frame]
  | stop => simp [EncRegs.clearRun]
  | _ => simp

/-! ## The invariant -/

theorem finalizedRecord_legal {d : DecRegs} (hv : d.validates prn = true) (dur : Dur) :
    (finalizedRecord prn d dur).Legal := by
  obtain ⟨hlo, hhi⟩ := finalizedRecord_guard_range d dur
  obtain ⟨hcnt, hacc, hprev⟩ := (DecRegs.validates_iff prn d).mp hv
  exact ⟨hlo, hhi, .inr ⟨BitVec.eq_of_toNat_eq hcnt, by rwa [← hacc] at hprev⟩⟩

theorem feed_record_legal {s : State} (h : s.record.Legal) (level : Bit) (dur : Dur) :
    (s.feed prn level dur).record.Legal := by
  rw [State.feed_record]
  rcases feedRegs_record prn level dur s.dec s.record with ⟨-, hr⟩ | ⟨-, hr, -, -, -, hv⟩
  · rwa [hr]
  · rw [hr]
    exact finalizedRecord_legal hv dur

theorem EncRegs.Legal.clearRun {e : EncRegs} (h : e.Legal) : e.clearRun.Legal := by
  obtain ⟨hseq, ⟨hlen, hcur, -⟩ | hlen⟩ := h
  · exact ⟨hseq, .inl ⟨hlen, hcur, rfl⟩⟩
  · exact ⟨hseq, .inr hlen⟩

/-- A running encoder has been configured, and its cursor wraps at the last of the 50 entries (R201). -/
theorem EncRegs.Legal.advance {e : EncRegs} (h : e.Legal) (hrun : e.run = 1) : e.advance.Legal := by
  obtain ⟨hseq, ⟨-, -, hstop⟩ | ⟨hlen, hcur⟩⟩ := h
  · simp [hrun] at hstop
  · obtain ⟨hseq', hlen', -⟩ := e.advance_frame
    refine ⟨hseq' ▸ hseq, .inr ⟨hlen' ▸ hlen, ?_⟩⟩
    unfold EncRegs.advance
    split
    · exact Nat.zero_lt_succ _
    · next hlast =>
      rw [hlen] at hlast
      bv_omega

/-- A 24-bit pass fills the 50 entries exactly (R197), whatever stood in them. -/
theorem EncRegs.Legal.configured {e : EncRegs} (h : e.Legal) (data : Data) (te : Dur) (g : Nat) (r : Dur) :
    (e.configured 24 (buildSequence 24 data te g) r).Legal := by
  refine ⟨?_, .inr ⟨rfl, Nat.zero_lt_succ _⟩⟩
  simp [EncRegs.configured, writeSeq_length, buildSequence_length, h.1]

theorem nextPulse_enc_legal {s : State} (h : s.enc.Legal) : s.nextPulse.enc.Legal := by
  rcases nextPulse_cases s with ⟨-, hn⟩ | ⟨-, hrun, hn⟩
  · simpa [hn] using h.clearRun
  · simpa [hn] using h.advance hrun

theorem Effect.legal {s t : State} {i : Instr} (h : Effect s i t) (hs : s.Legal) : t.Legal := by
  obtain ⟨hrec, henc⟩ := hs
  cases h with
  | feed level dur => exact ⟨feed_record_legal hrec level dur, henc⟩
  | config serial button te guard guardP rep repP => exact ⟨hrec, henc.configured _ _ _ _⟩
  | next => exact ⟨by simpa using hrec, nextPulse_enc_legal henc⟩
  | stop => exact ⟨hrec, henc.clearRun⟩
  | _ => exact ⟨hrec, henc⟩

theorem exec_legal {i : Instr} {s t : State} (hs : s.Legal) (h : exec i s = .next t) : t.Legal := by
  obtain ⟨t', ht', he⟩ := exec_effect i s
  obtain rfl : t' = t := by simpa [ht'] using h
  exact he.legal hs

/-- Settles O49: a step with nothing pending keeps the state, one that takes a command changes the queue and then
performs it, or rejects it with a response alone. -/
theorem stepKeepsLegal : Obligations.StepKeepsLegal := by
  intro s t hs h
  unfold step at h
  split at h
  · obtain rfl : s = t := by simpa [State.betweenCommands] using h
    exact hs
  · next cmd s' htake =>
    obtain ⟨rest, -, rfl⟩ := State.takeCommand_eq_some htake
    have hs' : State.Legal { s with pending := rest } := hs
    split at h
    · exact exec_legal hs' h
    · next e _ =>
      obtain rfl : State.failWith { s with pending := rest } .illegal = t := by simpa [State.rejectCommand_eq] using h
      exact hs'

/-! ## Reset -/

/-- Settles O1: the entries of `ENC_SEQ` are 50 copies of (0, 0); every other register by its reset value. -/
theorem resetRegisterValues : Obligations.ResetRegisterValues :=
  ⟨rfl, rfl, List.length_replicate, fun _ => List.eq_of_mem_replicate, rfl, rfl, rfl, rfl, rfl⟩

/-- Settles O48, from the reset values. -/
theorem resetIsLegal : Obligations.ResetIsLegal := by
  obtain ⟨-, hrec, hseq, -, hlen, hcur, -, hrun, -⟩ := resetRegisterValues
  refine ⟨?_, hseq, .inl ⟨hlen, hcur, hrun⟩⟩
  rw [hrec]
  exact ⟨by decide, by decide, .inl rfl⟩

end Sys2Proof.Machine
end

section
/-! The step that takes a decodable command (R67, R69), the side effects of the reads (R68), and the sequence of the
encoder between two CONFIGs (R71, R286): the facts of the family 20_memory.md. -/

namespace Sys2Proof.Machine

/-! ## A step that takes a command -/

/-- The oldest pending command is taken from the queue and performed (R67, R69; log entry 1). -/
theorem step_of_decode_ok {s : State} {cmd : Command} {rest : List Command} {i : Instr} (hp : s.pending = cmd :: rest)
    (hd : decode cmd = .ok i) : step s = exec i { s with pending := rest } := by
  simp only [step, State.takeCommand_cons hp, hd]

/-- Settles O41: the command taken is the oldest, and it is performed in the state without it. -/
theorem stepRunsDecodedCommand : Obligations.StepRunsDecodedCommand := fun _ _ _ _ => step_of_decode_ok

/-! ## The side effects of the reads -/

theorem EncRegs.advance_of_last {e : EncRegs} (h : e.cur.toNat + 1 = e.len.toNat) :
    e.advance = { e with cur := 0, rep := e.rep - 1 } := if_pos h

theorem EncRegs.advance_of_not_last {e : EncRegs} (h : e.cur.toNat + 1 ≠ e.len.toNat) :
    e.advance = { e with cur := e.cur + 1 } := if_neg h

/-- Moving on always shows: in the repeat count at the last entry, in the cursor before it (R200, R201). -/
theorem EncRegs.advance_ne (e : EncRegs) : e.advance ≠ e := by
  intro h
  by_cases hlast : e.cur.toNat + 1 = e.len.toNat
  · rw [EncRegs.advance_of_last hlast] at h
    have hrep : e.rep - 1 = e.rep := congrArg EncRegs.rep h
    bv_omega
  · rw [EncRegs.advance_of_not_last hlast] at h
    have hcur : e.cur + 1 = e.cur := congrArg EncRegs.cur h
    bv_omega

/-- A running encoder stops when it is finished (R202) and moves on when it is not (R200). -/
theorem nextPulse_enc_ne {s : State} (hrun : s.enc.run = 1) : s.nextPulse.enc ≠ s.enc := by
  rcases nextPulse_cases s with ⟨-, h⟩ | ⟨-, -, h⟩
  · intro he
    have hclear : (0 : Bit) = s.enc.run := by simpa [h, EncRegs.clearRun] using congrArg EncRegs.run he
    simp [hrun] at hclear
  · simpa [h] using s.enc.advance_ne

/-- Each of the nine reads of R68 adds one response, computed from its operands and the registers alone. -/
theorem exec_pureRead {i : Instr} (hi : Claims.IsPureRead i) (s : State) :
    ∃ r, ∀ answers : List Response,
      exec i { s with responses := answers } = .next { s with responses := answers ++ [r] } := by
  rcases hi with rfl | rfl | rfl | rfl | rfl | ⟨v, rfl⟩ | ⟨data, rfl⟩ | ⟨serial, button, wsel, rfl⟩ | ⟨orig, dir, wsel, rfl⟩
  · exact ⟨⟨.ok, .record s.record.data s.record.bits s.record.te s.record.guard⟩, fun _ => rfl⟩
  · exact ⟨⟨.ok, .hash (prn.hashFn (recordBytes s.record))⟩, fun _ => rfl⟩
  · exact ⟨⟨.ok, .value s.ctx.orig⟩, fun _ => rfl⟩
  · exact ⟨⟨.ok, .value s.ctx.vbtn⟩, fun _ => rfl⟩
  · exact ⟨⟨.ok, .value s.ctx.vmax⟩, fun _ => rfl⟩
  · exact ⟨⟨.ok, .width (fieldWidth prn v)⟩, fun _ => rfl⟩
  · exact ⟨⟨.ok, splitWord prn data⟩, fun _ => rfl⟩
  · exact ⟨⟨.ok, .data (packWord serial button wsel)⟩, fun _ => rfl⟩
  · exact ⟨⟨.ok, .button (remapButton prn orig dir wsel)⟩, fun _ => rfl⟩

/-- Settles O46: NEXT clears the running flag or moves on; the nine other reads add a response of the registers. -/
theorem readsWithoutSideEffects : Obligations.ReadsWithoutSideEffects :=
  ⟨fun s hrun => ⟨s.nextPulse, exec_next s, nextPulse_enc_ne hrun⟩, fun _ s hi => exec_pureRead hi s⟩

/-! ## The sequence between two CONFIGs -/

/-- What every command of a kind keeps, a list of such commands keeps, and the list runs to its end. -/
theorem execAll_keeps {Kind : Instr → Prop} {Inv : State → Prop}
    (hexec : ∀ i s, Kind i → Inv s → ∃ t, exec i s = .next t ∧ Inv t) :
    ∀ (is : List Instr) (s : State), (∀ i ∈ is, Kind i) → Inv s → ∃ t, execAll is s = .next t ∧ Inv t := by
  intro is
  induction is with
  | nil => exact fun s _ hs => ⟨s, rfl, hs⟩
  | cons i rest ih =>
    intro s hkind hs
    obtain ⟨hi, hrest⟩ := List.forall_mem_cons.mp hkind
    obtain ⟨s', hs', hinv⟩ := hexec i s hi hs
    rw [execAll_cons hs']
    exact ih s' hrest hinv

/-- Only a CONFIG that succeeds writes the sequence and its length (R32, R33, R71). -/
theorem exec_keeps_sequence {i : Instr} (hi : isGoodConfig i = false) (s : State) :
    ∃ t, exec i s = .next t ∧ t.enc.seq = s.enc.seq ∧ t.enc.len = s.enc.len := by
  obtain ⟨t, ht, -, -, -, -, hseq, -⟩ := registersWrittenOnlyByTheirCommands i s
  exact ⟨t, ht, hseq hi⟩

theorem execAll_keeps_sequence (is : List Instr) (s : State) (h : ∀ i ∈ is, isGoodConfig i = false) :
    ∃ t, execAll is s = .next t ∧ t.enc.seq = s.enc.seq ∧ t.enc.len = s.enc.len := by
  refine execAll_keeps (Inv := fun t => t.enc.seq = s.enc.seq ∧ t.enc.len = s.enc.len) ?_ is s h ⟨rfl, rfl⟩
  rintro i u hi ⟨hseq, hlen⟩
  obtain ⟨t, ht, hseq', hlen'⟩ := exec_keeps_sequence hi u
  exact ⟨t, ht, hseq'.trans hseq, hlen'.trans hlen⟩

/-- A CONFIG of 24 bits with a time unit leaves a new pass in the encoder, at its first entry (R196 to R198). -/
theorem configure_enc_of_good (serial : Data) (button : Byte) (te guard : Dur) (guardP : Bit) (rep : Dur) (repP : Bit)
    (s : State) :
    (s.configure prn serial button 24 te 1 guard guardP rep repP).enc
      = s.enc.configured 24 (buildSequence 24 (configWord prn s.ctx serial button) te (configGuard prn guard guardP))
          (configRepeat prn rep repP) := by
  rcases configure_cases prn serial button 24 te 1 guard guardP rep repP s with ⟨st, hst, -⟩ | ⟨-, h⟩
  · cases hst
  · rw [h]
    rfl

/-- NEXT on a playing encoder whose cursor has an entry returns that entry (R200). -/
theorem nextPulse_of_entry {s : State} {p : Pulse} (hrep : s.enc.rep ≠ 0) (hrun : s.enc.run = 1)
    (hp : s.enc.seq[s.enc.cur.toNat]? = some p) :
    s.nextPulse = (s.withEnc s.enc.advance).respond .ok (.pulse 1 p.level p.dur) := by
  rcases nextPulse_cases s with ⟨hrep' | hrun', -⟩ | ⟨-, -, h⟩
  · exact absurd hrep' hrep
  · simp [hrun] at hrun'
  · rw [h, State.pulseAtCursor_of_getElem? hp]

section
variable (e : EncRegs) (built : List Pulse) (r : Dur)

@[simp] theorem EncRegs.configured_len : (e.configured 24 built r).len = 50 := rfl
@[simp] theorem EncRegs.configured_cur : (e.configured 24 built r).cur = 0 := rfl
@[simp] theorem EncRegs.configured_rep : (e.configured 24 built r).rep = r := rfl
@[simp] theorem EncRegs.configured_run : (e.configured 24 built r).run = 1 := rfl

/-- The built sequence is what stands at the beginning (R196). -/
theorem EncRegs.configured_seq_getElem? {k : Nat} (h : k < built.length) :
    (e.configured 24 built r).seq[k]? = some built[k] :=
  (writeSeq_getElem?_lt h).trans (List.getElem?_eq_getElem h)

end

/-- With a repeat count, the first NEXT of a pass returns entry 0 and moves to entry 1 (R200). -/
theorem nextPulse_of_configured {s : State} {e : EncRegs} {data : Data} {te : Dur} {g : Nat} {r : Dur} (hr : r ≠ 0)
    (he : s.enc = e.configured 24 (buildSequence 24 data te g) r) :
    ∃ p, s.enc.seq[0]? = some p
      ∧ s.nextPulse = (s.withEnc { s.enc with cur := 1 }).respond .ok (.pulse 1 p.level p.dur) := by
  have hlen : 0 < (buildSequence 24 data te g).length := by simp [buildSequence_length]
  have hcur : s.enc.cur = 0 := by simp [he]
  have hentry : s.enc.seq[0]? = some (buildSequence 24 data te g)[0] := by rw [he, EncRegs.configured_seq_getElem?]
  have hlast : s.enc.cur.toNat + 1 ≠ s.enc.len.toNat := by simp [he]
  refine ⟨_, hentry, ?_⟩
  rw [nextPulse_of_entry (by simpa [he] using hr) (by simp [he]) (by rwa [hcur]), EncRegs.advance_of_not_last hlast, hcur]
  rfl

/-- Settles O33: by induction over the commands for the first half; for the second, a successful CONFIG leaves a new pass
at its first entry, whatever state it finds. -/
theorem sequenceImmutableBetweenConfigs : Obligations.SequenceImmutableBetweenConfigs := by
  refine ⟨execAll_keeps_sequence, fun serial button te guard guardP rep s hrep => ?_⟩
  obtain ⟨p, hp, hnext⟩ :=
    nextPulse_of_configured hrep (configure_enc_of_good serial button te guard guardP rep 1 s)
  exact ⟨_, _, p, exec_config .., hp, exec_next _, by rw [hnext]; rfl, by rw [hnext]; rfl⟩

end Sys2Proof.Machine
end

section
/-! Decoding and encoding of command words (R80 to R85), the response of every command (R82), and the expansion of
assembler lines (R86, R87): the facts of the family 30_encoding.md. -/

namespace Sys2Proof.Machine

/-! ## Decoding an encoded command

The bundle of each format of R81 gives its fields back. `Nat.reduceAdd` stays off there: the rules about a field of
`hi ++ lo` need the width of the append as a sum. -/

/-- Format E. -/
theorem bundle_feed_fields (level : Bit) (dur : Dur) :
    (bundle (.feed level dur)).extractLsb' 0 1 = level ∧ (bundle (.feed level dur)).extractLsb' 1 32 = dur := by
  simp [bundle, extractLsb'_bundle, extractLsb'_append_low, extractLsb'_append_high, -Nat.reduceAdd]

/-- Format B, of FWID, SETORIG, SETVBTN and SETVMAX. -/
theorem extractLsb'_setWidth_byte (v : Byte) : (v.setWidth 179).extractLsb' 0 8 = v := by
  rw [extractLsb'_bundle v (by decide) (by decide), extractLsb'_whole]

/-- Format D. -/
theorem bundle_split_field (data : Data) : (bundle (.split data)).extractLsb' 0 64 = data := by
  rw [bundle, extractLsb'_bundle data (by decide) (by decide), extractLsb'_whole]

/-- Format P. -/
theorem bundle_pack_fields (serial : Data) (button : Byte) (wsel : Bit) :
    (bundle (.pack serial button wsel)).extractLsb' 0 64 = serial
      ∧ (bundle (.pack serial button wsel)).extractLsb' 64 8 = button
      ∧ (bundle (.pack serial button wsel)).extractLsb' 72 1 = wsel := by
  simp [bundle, extractLsb'_bundle, extractLsb'_append_low, extractLsb'_append_high, -Nat.reduceAdd]

/-- Format M. -/
theorem bundle_remap_fields (orig dir : Byte) (wsel : Bit) :
    (bundle (.remap orig dir wsel)).extractLsb' 0 8 = orig
      ∧ (bundle (.remap orig dir wsel)).extractLsb' 8 8 = dir
      ∧ (bundle (.remap orig dir wsel)).extractLsb' 16 1 = wsel := by
  simp [bundle, extractLsb'_bundle, extractLsb'_append_low, extractLsb'_append_high, -Nat.reduceAdd]

/-- Format C, which fills the bundle. -/
theorem bundle_config_fields (serial : Data) (button bits : Byte) (te : Dur) (teP : Bit) (guard : Dur) (guardP : Bit)
    (rep : Dur) (repP : Bit) :
    let b := bundle (.config serial button bits te teP guard guardP rep repP)
    b.extractLsb' 0 64 = serial ∧ b.extractLsb' 64 8 = button ∧ b.extractLsb' 72 8 = bits ∧ b.extractLsb' 80 32 = te
      ∧ b.extractLsb' 112 1 = teP ∧ b.extractLsb' 113 32 = guard ∧ b.extractLsb' 145 1 = guardP
      ∧ b.extractLsb' 146 32 = rep ∧ b.extractLsb' 178 1 = repP := by
  simp [bundle, extractLsb'_append_low, extractLsb'_append_high, -Nat.reduceAdd]

/-- The opcode of an encoded command selects its format, and the bundle gives the fields of the format back. -/
theorem decode_encode (i : Instr) : decode (encode i) = .ok i := by
  cases i with
  | feed => simp [decode, opcodeOf_encode, opcode, operandField_encode, bundle_feed_fields]
  | split => simp [decode, opcodeOf_encode, opcode, operandField_encode, bundle_split_field]
  | pack => simp [decode, opcodeOf_encode, opcode, operandField_encode, bundle_pack_fields]
  | remap => simp [decode, opcodeOf_encode, opcode, operandField_encode, bundle_remap_fields]
  | config => simp [decode, opcodeOf_encode, opcode, operandField_encode, bundle_config_fields]
  | fwid | setorig | setvbtn | setvmax =>
    simp [decode, opcodeOf_encode, opcode, operandField_encode, bundle, extractLsb'_setWidth_byte]
  | _ => simp [decode, opcodeOf_encode, opcode]

/-- Settles O39, format by format. -/
theorem decodeOfEncode : Obligations.DecodeOfEncode := decode_encode

/-- Settles O40: each of the four words is the encoding of its command. -/
theorem decodeSampleWords : Obligations.DecodeSampleWords :=
  ⟨decode_encode (.feed 1 390), decode_encode .drst, decode_encode (.setvbtn 3), decode_encode (.remap 0x30 2 1)⟩

/-! ## The opcode map -/

/-- Every way through the decoder: a word of a defined opcode is a command of that opcode, any other is reserved. -/
theorem decode_cases (cmd : Command) :
    (∃ i, decode cmd = .ok i ∧ opcodeOf cmd = opcode i)
    ∨ (Claims.IsReserved (opcodeOf cmd) ∧ decode cmd = .error (.reservedOpcode (opcodeOf cmd))) := by
  unfold decode
  split
  case h_18 =>
    refine .inr ⟨?_, rfl⟩
    simp only [imp_false] at *
    omega
  all_goals exact .inl ⟨_, rfl, BitVec.eq_of_toNat_eq ‹_›⟩

theorem opcodeOf_of_decode_ok {cmd : Command} {i : Instr} (h : decode cmd = .ok i) : opcodeOf cmd = opcode i := by
  rcases decode_cases cmd with ⟨j, hj, hop⟩ | ⟨-, he⟩
  · obtain rfl : j = i := by simpa [hj] using h
    exact hop
  · simp [he] at h

/-- Settles O38: an encoded command carries its opcode, and so does every word that decodes to it. -/
theorem opcodeMap : Obligations.OpcodeMap :=
  ⟨fun _ _ => opcodeOf_encode _, opcodeOf_encode _, opcodeOf_encode _, opcodeOf_encode _, fun _ => opcodeOf_encode _,
    fun _ => opcodeOf_encode _, fun _ _ _ => opcodeOf_encode _, fun _ _ _ => opcodeOf_encode _,
    fun _ _ _ _ _ _ _ _ _ => opcodeOf_encode _, opcodeOf_encode _, opcodeOf_encode _, opcodeOf_encode _,
    fun _ => opcodeOf_encode _, opcodeOf_encode _, fun _ => opcodeOf_encode _, opcodeOf_encode _,
    fun _ => opcodeOf_encode _, fun _ i h => (opcodeOf_encode i).trans (opcodeOf_of_decode_ok h).symm⟩

/-! ## Reserved opcodes -/

/-- No opcode of R84 lies in a range of R85. -/
theorem not_isReserved_opcode (i : Instr) : ¬Claims.IsReserved (opcode i) := by
  cases i <;> simp [Claims.IsReserved, opcode]

theorem decode_of_isReserved {cmd : Command} (h : Claims.IsReserved (opcodeOf cmd)) :
    decode cmd = .error (.reservedOpcode (opcodeOf cmd)) := by
  rcases decode_cases cmd with ⟨i, -, hop⟩ | ⟨-, he⟩
  · exact absurd (hop ▸ h) (not_isReserved_opcode i)
  · exact he

/-- The oldest pending command is taken from the queue and rejected (R85; log entry 1). -/
theorem step_of_decode_error {s : State} {cmd : Command} {rest : List Command} {e : DecodeError}
    (hp : s.pending = cmd :: rest) (hd : decode cmd = .error e) :
    step s = .next (State.failWith { s with pending := rest } .illegal) := by
  simp only [step, State.takeCommand_cons hp, hd, State.rejectCommand_eq]

/-- Settles O43: the decoder rejects the words of a reserved opcode, and no others. -/
theorem reservedOpcodesAreIllegal : Obligations.ReservedOpcodesAreIllegal := by
  refine ⟨rfl, fun _ _ _ hp hres => step_of_decode_error hp (decode_of_isReserved hres), fun cmd hres => ?_⟩
  rcases decode_cases cmd with ⟨i, hi, -⟩ | ⟨hres', -⟩
  · exact ⟨i, hi⟩
  · exact absurd hres' hres

/-! ## Responses -/

theorem splitWord_fields (c : Config) (data : Data) : ∃ s b w, splitWord c data = .split s b w := by
  simp only [splitWord]
  split
  · exact ⟨_, _, _, rfl⟩
  · exact ⟨_, _, _, rfl⟩

theorem nextPulse_responses (s : State) :
    ∃ v l d, s.nextPulse.responses = s.responses ++ [⟨.ok, .pulse v l d⟩] := by
  rcases nextPulse_cases s with ⟨-, h⟩ | ⟨-, -, h⟩
  · exact ⟨0, 0, 0, by simp [h]⟩
  · exact ⟨1, s.pulseAtCursor.level, s.pulseAtCursor.dur, by simp [h]⟩

/-- Settles O44, command by command: a found flag, the four record fields, and so on down the table of R82; a command
that fails answers no field, and is CONFIG or SETVBTN, whose row has none. -/
theorem everyCommandReturnsItsResponse : Obligations.EveryCommandReturnsItsResponse := by
  intro i s
  cases i with
  | feed level dur => exact ⟨_, _, exec_feed .., State.feed_responses .., _, rfl⟩
  | rdrec => exact ⟨_, _, exec_rdrec s, State.respond_responses .., _, _, _, _, rfl⟩
  | hash => exact ⟨_, _, exec_hash s, State.respond_responses .., _, rfl⟩
  | fwid v => exact ⟨_, _, exec_fwid s v, State.respond_responses .., _, rfl⟩
  | split data => exact ⟨_, _, exec_split s data, State.respond_responses .., splitWord_fields prn data⟩
  | pack serial button wsel => exact ⟨_, _, exec_pack .., State.respond_responses .., _, rfl⟩
  | remap orig dir wsel => exact ⟨_, _, exec_remap .., State.respond_responses .., _, rfl⟩
  | config serial button bits te teP guard guardP rep repP =>
    obtain ⟨st, hresp⟩ := configure_responses prn serial button bits te teP guard guardP rep repP s
    exact ⟨_, _, exec_config .., hresp, rfl⟩
  | next =>
    obtain ⟨v, l, d, hresp⟩ := nextPulse_responses s
    exact ⟨_, _, exec_next s, hresp, v, l, d, rfl⟩
  | setvbtn v =>
    rw [exec_setvbtn]
    split
    · exact ⟨_, _, rfl, State.respond_responses .., rfl⟩
    · exact ⟨_, _, rfl, State.failWith_responses .., rfl⟩
  | getorig | getvbtn | getvmax => exact ⟨_, _, rfl, State.respond_responses .., _, rfl⟩
  | drst | stop | setorig | setvmax => exact ⟨_, _, rfl, State.respond_responses .., rfl⟩

/-! ## The assembler -/

/-- A bit written out, as FRAME reads it: bit `k` of `x`, most significant first (R87). -/
theorem expandLine_cell_bit (x k t : Nat) : expandLine (.cell (x / 2 ^ k % 2) t) = cellFeeds (x.testBit k) t := by
  rw [Nat.testBit_eq_decide_div_mod_eq]
  rfl

theorem expandLine_frame_eq_pseudo (x t g : Nat) :
    expandLine (.frame x t g)
      = (List.range 24).flatMap (fun j => expandLine (.cell (x / 2 ^ (23 - j) % 2) t))
          ++ expandLine (.stopp t) ++ expandLine (.gap (t * g)) := by
  simp only [expandLine_cell_bit, List.append_assoc]
  rfl

theorem trunc32_mul_toNat_ofNat (k t : Nat) : trunc32 ((BitVec.ofNat 32 t).toNat * k) = BitVec.ofNat 32 (t * k) := by
  apply BitVec.eq_of_toNat_eq
  simp [trunc32, Nat.mod_mul_mod]

theorem feedsOf_append (xs ys : List Pulse) :
    Claims.feedsOf (xs ++ ys) = Claims.feedsOf xs ++ Claims.feedsOf ys := List.map_append

/-- A bit cell of the encoder, fed, is the CELL of its bit (R87, R196). -/
theorem feedsOf_bitCell (t : Nat) (b : Bool) : Claims.feedsOf (bitCell (BitVec.ofNat 32 t) b) = cellFeeds b t := by
  have hlong : longPulse (BitVec.ofNat 32 t) = BitVec.ofNat 32 (3 * t) := by
    rw [longPulse, Nat.mul_comm, trunc32_mul_toNat_ofNat, Nat.mul_comm]
  cases b <;> simp [bitCell, hlong, cellFeeds, feedOf]

/-- The bits of a word that fit 64 bits are the number's own bits. -/
theorem feedsOf_bitCells {bits : Nat} (hbits : bits ≤ 64) (x t : Nat) :
    Claims.feedsOf (bitCells bits (BitVec.ofNat 64 x) (BitVec.ofNat 32 t))
      = (List.range bits).flatMap fun j => cellFeeds (x.testBit (bits - 1 - j)) t := by
  refine List.map_flatMap.trans (List.flatMap_congr fun j hj => ?_)
  have hlt : bits - 1 - j < 64 := by
    have := List.mem_range.mp hj
    omega
  have hbit : (BitVec.ofNat 64 x).getLsbD (bits - 1 - j) = x.testBit (bits - 1 - j) := by
    rw [BitVec.getLsbD_ofNat, decide_eq_true hlt, Bool.true_and]
  rw [hbit, ← feedsOf_bitCell]

theorem expandLine_frame_eq_feedsOf (x t g : Nat) :
    expandLine (.frame x t g) = Claims.feedsOf (buildSequence 24 (BitVec.ofNat 64 x) (BitVec.ofNat 32 t) g) := by
  rw [buildSequence, trunc32_mul_toNat_ofNat, feedsOf_append, feedsOf_bitCells (by decide)]
  rfl

/-- Settles O57: five expansions as R87 writes them, and FRAME cell by cell. -/
theorem pseudoInstructionExpansion : Obligations.PseudoInstructionExpansion :=
  ⟨rfl, fun _ => rfl, fun _ => rfl, fun _ => rfl, fun _ => rfl, fun _ => rfl,
    fun x t g => ⟨expandLine_frame_eq_pseudo x t g, expandLine_frame_eq_feedsOf x t g⟩⟩

theorem optionalOperand_eq (operand : Option Nat) :
    optionalOperand operand = (if operand.isSome then 1 else 0, BitVec.ofNat 32 (operand.getD 0)) := by
  cases operand <;> rfl

/-- Settles O58, from the presence flag and the value of an optional operand. -/
theorem omittedOperandsAssembleToZero : Obligations.OmittedOperandsAssembleToZero := by
  intro serial button bits te guard rep
  simp only [expandLine, optionalOperand_eq]

end Sys2Proof.Machine
end

section
/-! The integer laws of the classifier (R100, R108, R109), and the pass, the playback registers and the context a
successful CONFIG leaves (R193 to R199): the facts of the family 40_classifier.md. -/

namespace Sys2Proof.Machine

/-! ## Match and guard ratio -/

/-- Settles O2, by the linear form of a match. -/
theorem matchIsStrictDistance : Obligations.MatchIsStrictDistance := by
  intro obs nom tol
  rw [matchesNominal_iff]
  omega

theorem guardRaw_of_te_eq_zero {te : Dur} (h : te.toNat = 0) (c : Config) (gap : Dur) :
    guardRaw c gap te = c.guardDefault := if_pos h

theorem guardRaw_of_te_ne_zero {te : Dur} (h : te.toNat ≠ 0) (c : Config) (gap : Dur) :
    guardRaw c gap te = (2 * gap.toNat + te.toNat) / (2 * te.toNat) := if_neg h

/-- Settles O4: the two bounds are those of a quotient by `2 * te`. -/
theorem guardEstimateIsNearest : Obligations.GuardEstimateIsNearest := by
  refine fun c gap te => ⟨fun h => guardRaw_of_te_eq_zero h c gap, fun h => ?_⟩
  have hpos : 0 < 2 * te.toNat := by omega
  rw [guardRaw_of_te_ne_zero h, Nat.mul_right_comm 2 (_ / _), Nat.mul_right_comm 2 (_ + 1)]
  exact ⟨rfl, Nat.mul_div_le _ _, Nat.lt_mul_div_succ _ hpos⟩

/-- The correction under the R6 values (R109). -/
theorem guardFix_prn (g : Nat) : guardFix prn g = if 15 ≤ g ∧ g ≤ 72 then g else 30 := rfl

/-- Settles O5: the kept range, its complement, and the upper end of the range of results. -/
theorem guardCorrectionReplaces : Obligations.GuardCorrectionReplaces := by
  intro g
  refine ⟨fun h => if_pos h, fun h => ?_, (guardFix_prn_range g).2.trans_lt (by decide)⟩
  rw [guardFix_prn, if_neg (by omega)]

/-! ## The data word and the guard ratio of CONFIG -/

/-- The sentinel test as a width select (R120). -/
theorem fieldWidth_prn (v : Byte) : fieldWidth prn v = if Claims.IsSentinel v then 1 else 0 := by
  simp only [fieldWidth, flagBit, isSentinel_prn]

theorem widthOf_fieldWidth_prn (v : Byte) : widthOf (fieldWidth prn v) = if Claims.IsSentinel v then 8 else 4 := by
  rw [fieldWidth_prn]
  split <;> rfl

/-- Packing is exact arithmetic cut to 64 bits (R111): the shift and the OR both commute with the cut. -/
theorem packWord_eq_ofNat (serial : Data) (button : Byte) (wsel : Bit) :
    packWord serial button wsel = BitVec.ofNat 64 ((serial.toNat <<< widthOf wsel) ||| button.toNat) := by
  have hshift : serial <<< widthOf wsel = BitVec.ofNat 64 (serial.toNat <<< widthOf wsel) := by
    apply BitVec.eq_of_toNat_eq
    rw [BitVec.toNat_shiftLeft, BitVec.toNat_ofNat]
  rw [packWord, BitVec.ofNat_or, BitVec.ofNat_toNat, hshift]

/-- The effective button is the original remapped with the original's width (R195). -/
theorem effectiveButton_prn (ctx : CtxRegs) (button : Byte) :
    effectiveButton prn ctx button
      = remapButton prn (originalButton ctx button) ctx.vbtn
          (if Claims.IsSentinel (originalButton ctx button) then 1 else 0) := by
  rw [← fieldWidth_prn]
  rfl

/-- The data word is packed with the width of the effective button (R195). -/
theorem configWord_prn (ctx : CtxRegs) (serial : Data) (button : Byte) :
    configWord prn ctx serial button
      = BitVec.ofNat 64 ((serial.toNat <<< (if Claims.IsSentinel (effectiveButton prn ctx button) then 8 else 4))
          ||| (effectiveButton prn ctx button).toNat) := by
  rw [configWord, packWord_eq_ofNat, widthOf_fieldWidth_prn]

/-- A guard operand that is absent or out of range gives the default (R194). -/
theorem configGuard_prn (guard : Dur) (guardP : Bit) :
    configGuard prn guard guardP = if guardP = 1 ∧ 15 ≤ guard.toNat ∧ guard.toNat ≤ 72 then guard.toNat else 30 := by
  rw [ite_and, ← guardFix_prn]
  rfl

/-! ## The entries of the built sequence -/

/-- In a concatenation of pairs, entry `r` of the pair of element `j` stands at `2 * j + r`. -/
theorem getElem?_flatMap_of_length_two {α β : Type} {f : α → List β} (hf : ∀ a, (f a).length = 2) {xs : List α}
    {j r : Nat} {a : α} (hj : xs[j]? = some a) (hr : r < 2) : (xs.flatMap f)[2 * j + r]? = (f a)[r]? := by
  induction xs generalizing j with
  | nil => simp at hj
  | cons x xs ih =>
    rw [List.flatMap_cons]
    cases j with
    | zero =>
      obtain rfl : x = a := by simpa using hj
      rw [Nat.mul_zero, Nat.zero_add, List.getElem?_append_left (by rwa [hf])]
    | succ j =>
      have hle : (f x).length ≤ 2 * (j + 1) + r := by rw [hf]; omega
      have hsub : 2 * (j + 1) + r - (f x).length = 2 * j + r := by rw [hf]; omega
      rw [List.getElem?_append_right hle, hsub, ih hj]

section
variable (data : Data) (te : Dur) (g : Nat) {bits : Nat}

/-- Cell `j` of a pass carries bit `bits - 1 - j`: the most significant bit comes first (R196). -/
theorem buildSequence_cell_getElem? {j r : Nat} (hj : j < bits) (hr : r < 2) :
    (buildSequence bits data te g)[2 * j + r]? = (bitCell te (data.getLsbD (bits - 1 - j)))[r]? := by
  have hlt : 2 * j + r < (bitCells bits data te).length := by
    rw [bitCells_length]
    omega
  rw [buildSequence, List.getElem?_append_left hlt, bitCells]
  exact getElem?_flatMap_of_length_two (fun _ => bitCell_length _ _) (List.getElem?_range hj) hr

/-- After the cells come the stop pulse and the guard gap (R196). -/
theorem buildSequence_tail_getElem? (r : Nat) :
    (buildSequence bits data te g)[2 * bits + r]? = [⟨1, te⟩, ⟨0, trunc32 (te.toNat * g)⟩][r]? := by
  rw [buildSequence, ← bitCells_length bits data te, List.getElem?_append_right (Nat.le_add_right _ _),
    Nat.add_sub_cancel_left]

end

/-- The two pulses of a cell: the high one is long for a 1, the low one for a 0 (R196). -/
theorem bitCell_eq (te : Dur) (b : Bool) :
    bitCell te b = [⟨1, if b then longPulse te else te⟩, ⟨0, if b then te else longPulse te⟩] := by
  cases b <;> rfl

/-! ## A successful CONFIG -/

/-- A CONFIG of 24 bits with a time unit meets no condition of R191, and writes the context and the encoder. -/
theorem configure_of_good (serial : Data) (button : Byte) (te guard : Dur) (guardP : Bit) (rep : Dur) (repP : Bit)
    (s : State) :
    s.configure prn serial button 24 te 1 guard guardP rep repP
      = ((s.withCtx ⟨originalButton s.ctx button, s.ctx.vbtn, 4⟩).withEnc
          (s.enc.configured 24 (buildSequence 24 (configWord prn s.ctx serial button) te (configGuard prn guard guardP))
            (configRepeat prn rep repP))).respond .ok .none := by
  rcases configure_cases prn serial button 24 te 1 guard guardP rep repP s with ⟨st, hst, -⟩ | ⟨-, h⟩
  · cases hst
  · exact h

section
variable (old : List Pulse) (data : Data) (te : Dur) (g : Nat)

/-- Entries 0 to 47 after a CONFIG: the 24 cells. -/
theorem writeSeq_buildSequence_cell {j : Nat} (hj : j < 24) :
    (writeSeq old (buildSequence 24 data te g))[2 * j]?
        = some ⟨1, if data.getLsbD (23 - j) then longPulse te else te⟩
      ∧ (writeSeq old (buildSequence 24 data te g))[2 * j + 1]?
        = some ⟨0, if data.getLsbD (23 - j) then te else longPulse te⟩ := by
  have hentry (r : Nat) (hr : r < 2) :
      (writeSeq old (buildSequence 24 data te g))[2 * j + r]? = (bitCell te (data.getLsbD (23 - j)))[r]? := by
    rw [writeSeq_getElem?_lt (by rw [buildSequence_length]; omega), buildSequence_cell_getElem? data te g hj hr]
  rw [bitCell_eq] at hentry
  exact ⟨hentry 0 Nat.zero_lt_two, hentry 1 Nat.one_lt_two⟩

/-- Entries 48 and 49 after a CONFIG: the stop pulse and the guard gap. -/
theorem writeSeq_buildSequence_tail :
    (writeSeq old (buildSequence 24 data te g))[48]? = some ⟨1, te⟩
      ∧ (writeSeq old (buildSequence 24 data te g))[49]? = some ⟨0, trunc32 (te.toNat * g)⟩ := by
  rw [writeSeq_getElem?_lt (by simp [buildSequence_length]), writeSeq_getElem?_lt (by simp [buildSequence_length])]
  exact ⟨buildSequence_tail_getElem? data te g 0, buildSequence_tail_getElem? data te g 1⟩

/-- The entries from 50 on are kept. -/
theorem writeSeq_buildSequence_kept {k : Nat} (hk : 50 ≤ k) :
    (writeSeq old (buildSequence 24 data te g))[k]? = old[k]? :=
  writeSeq_getElem?_ge (by rwa [buildSequence_length])

end

/-- Settles O28: the next state of a successful CONFIG, and the entries of its sequence cell by cell. -/
theorem configBuildsSequence : Obligations.ConfigBuildsSequence := by
  intro serial button te guard guardP rep repP s o eff data g t3
  have hdata : configWord prn s.ctx serial button = data := by
    rw [configWord_prn, effectiveButton_prn]
    rfl
  have hg : configGuard prn guard guardP = g := configGuard_prn guard guardP
  obtain ⟨hstop, hgap⟩ := writeSeq_buildSequence_tail s.enc.seq data te g
  refine ⟨writeSeq s.enc.seq (buildSequence 24 data te g), ?_, fun j hj => writeSeq_buildSequence_cell _ data te g hj,
    hstop, hgap, fun k hk => writeSeq_buildSequence_kept _ data te g hk⟩
  rw [exec_config, configure_of_good, hdata, hg]
  rfl

end Sys2Proof.Machine
end

section
/-! The Button Codec (R120 to R127): SPLIT and REMAP in the arithmetic of the spec, the fields of a packed word, and the
facts of the family 41_codec.md. -/

namespace Sys2Proof.Machine

/-! ## FWID, SPLIT, PACK -/

/-- Settles O20: the sentinel test as a width select. -/
theorem fieldWidthOfButton : Obligations.FieldWidthOfButton := by
  refine fun v s => ⟨opcodeOf_encode _, ?_⟩
  rw [exec_fwid, fieldWidth_prn]
  rfl

/-- SPLIT in arithmetic: the fields are a remainder and a quotient of the word (R121). -/
theorem splitWord_prn (data : Data) :
    splitWord prn data
      = if Claims.IsSentinel (BitVec.ofNat 8 (data.toNat % 256)) then
          .split (BitVec.ofNat 64 (data.toNat / 256)) (BitVec.ofNat 8 (data.toNat % 256)) 1
        else .split (BitVec.ofNat 64 (data.toNat / 16)) (BitVec.ofNat 8 (data.toNat % 16)) 0 := by
  have hlow8 : data.extractLsb' 0 8 = BitVec.ofNat 8 (data.toNat % 256) := by
    apply BitVec.eq_of_toNat_eq
    simp
  have hlow4 : (data.extractLsb' 0 4).setWidth 8 = BitVec.ofNat 8 (data.toNat % 16) := by
    apply BitVec.eq_of_toNat_eq
    simp
  have hshift (n : Nat) : data >>> n = BitVec.ofNat 64 (data.toNat / 2 ^ n) := by
    rw [← Nat.shiftRight_eq_div_pow, ← BitVec.toNat_ushiftRight, BitVec.ofNat_toNat, BitVec.setWidth_eq]
  simp only [splitWord, isSentinel_prn, hlow8, hlow4, hshift, Nat.reducePow]

/-- Settles O21, by the arithmetic form of SPLIT. -/
theorem splitDataWord : Obligations.SplitDataWord := by
  refine fun data s => ⟨opcodeOf_encode _, ?_⟩
  rw [exec_split, splitWord_prn]
  rfl

/-- Settles O22: packing is exact arithmetic cut to 64 bits. -/
theorem packDataWord : Obligations.PackDataWord := by
  refine fun serial button wsel s => ⟨opcodeOf_encode _, ?_⟩
  rw [exec_pack, packWord_eq_ofNat]
  rfl

/-! ## REMAP -/

/-- Codes 5 to 255 name no direction (R125). -/
theorem directionOf_of_five_le {code : Byte} (h : 5 ≤ code.toNat) : directionOf code = none := by
  unfold directionOf
  split
  case h_6 => rfl
  all_goals omega

theorem remapButton_of_five_le (c : Config) (orig : Byte) {dir : Byte} (wsel : Bit) (h : 5 ≤ dir.toNat) :
    remapButton c orig dir wsel = orig := by
  rw [remapButton, directionOf_of_five_le h]

/-- A direction other than OK asks the table, and an absent entry passes the original through (R126, R127). -/
theorem remapButton_of_direction (c : Config) (orig : Byte) {dir : Byte} (wsel : Bit) {d : Direction}
    (hdir : directionOf dir = some d) (hd : d ≠ .ok) :
    remapButton c orig dir wsel = (c.remapTable d wsel orig).getD orig := by
  rw [remapButton, hdir]
  cases d with
  | ok => exact absurd rfl hd
  | up | down | left | right => rfl

/-- The remap function code by code (R125 to R127). -/
theorem remapButton_eq_ite (c : Config) (orig dir : Byte) (wsel : Bit) :
    remapButton c orig dir wsel
      = if dir = 0 then orig
        else if dir = 1 then (c.remapTable .up wsel orig).getD orig
        else if dir = 2 then (c.remapTable .down wsel orig).getD orig
        else if dir = 3 then (c.remapTable .left wsel orig).getD orig
        else if dir = 4 then (c.remapTable .right wsel orig).getD orig
        else orig := by
  split_ifs with h0 h1 h2 h3 h4
  · rw [h0, remapButton_ok]
  · exact remapButton_of_direction c orig wsel (congrArg directionOf h1) nofun
  · exact remapButton_of_direction c orig wsel (congrArg directionOf h2) nofun
  · exact remapButton_of_direction c orig wsel (congrArg directionOf h3) nofun
  · exact remapButton_of_direction c orig wsel (congrArg directionOf h4) nofun
  · exact remapButton_of_five_le c orig wsel (by bv_omega)

/-- Settles O23: the remap function at the machine's own table. -/
theorem remapThroughOpenTable : Obligations.RemapThroughOpenTable := by
  refine fun orig dir wsel s => ⟨opcodeOf_encode _, ?_⟩
  rw [exec_remap, remapButton_eq_ite]
  rfl

/-- Settles O24: OK, a code that names no direction, and the four directions the table is asked for. -/
theorem remapForEveryTable : Obligations.RemapForEveryTable := by
  refine fun c orig dir wsel => ⟨?_, remapButton_of_five_le c orig wsel, fun d hd => ?_⟩
  · rintro rfl
    exact remapButton_ok c orig wsel
  · obtain ⟨hdir, hne⟩ : directionOf dir = some d ∧ d ≠ .ok := by
      obtain ⟨rfl, rfl⟩ | ⟨rfl, rfl⟩ | ⟨rfl, rfl⟩ | ⟨rfl, rfl⟩ := hd <;> exact ⟨rfl, nofun⟩
    have htable := remapButton_of_direction c orig wsel hdir hne
    exact ⟨fun h => by rw [htable, h, Option.getD_none], fun b h => by rw [htable, h, Option.getD_some]⟩

/-! ## SPLIT of a packed word -/

section
variable (serial : Data) (b : Byte) (wsel : Bit)

theorem packWord_toNat :
    (packWord serial b wsel).toNat = ((serial.toNat <<< widthOf wsel) ||| b.toNat) % 2 ^ 64 := by
  rw [packWord_eq_ofNat, BitVec.toNat_ofNat]

/-- Above its field the packed word holds the serial, cut to the bits left for it, and what of the unmasked button
reaches there (R111, R122). -/
theorem packWord_toNat_div :
    (packWord serial b wsel).toNat / 2 ^ widthOf wsel
      = serial.toNat % 2 ^ (64 - widthOf wsel) ||| b.toNat / 2 ^ widthOf wsel := by
  have hw : widthOf wsel ≤ 8 := by
    unfold widthOf
    split <;> decide
  have hb : b.toNat / 2 ^ widthOf wsel < 2 ^ (64 - widthOf wsel) :=
    calc b.toNat / 2 ^ widthOf wsel ≤ b.toNat := Nat.div_le_self _ _
      _ < 2 ^ 8 := b.isLt
      _ ≤ 2 ^ (64 - widthOf wsel) := Nat.pow_le_pow_right Nat.zero_lt_two (by omega)
  have hsplit : 2 ^ 64 = 2 ^ widthOf wsel * 2 ^ (64 - widthOf wsel) := by
    rw [← Nat.pow_add, Nat.add_sub_cancel' (by omega)]
  rw [packWord_toNat, hsplit, Nat.mod_mul_right_div_self, Nat.or_div_two_pow, Nat.shiftLeft_eq,
    Nat.mul_div_cancel _ (Nat.two_pow_pos _), Nat.or_mod_two_pow, Nat.mod_eq_of_lt hb]

/-- The low `k` bits of the packed word (R122). -/
theorem packWord_toNat_mod {k : Nat} (hk : k ≤ 64) :
    (packWord serial b wsel).toNat % 2 ^ k = (serial.toNat <<< widthOf wsel) % 2 ^ k ||| b.toNat % 2 ^ k := by
  rw [packWord_toNat, Nat.mod_mod_of_dvd _ (Nat.pow_dvd_pow 2 hk), Nat.or_mod_two_pow]

end

/-- A sentinel packed in 8 bits is the low byte of the word, and so its own sentinel test (R123). -/
theorem splitWord_packWord_eight (serial : Data) {b : Byte} (hb : Claims.IsSentinel b) :
    splitWord prn (packWord serial b 1) = .split (BitVec.ofNat 64 (serial.toNat % 2 ^ 56)) b 1 := by
  have hdiv : (packWord serial b 1).toNat / 256 = serial.toNat % 2 ^ 56 ||| b.toNat / 256 :=
    packWord_toNat_div serial b 1
  have hmod : (packWord serial b 1).toNat % 256 = (serial.toNat <<< 8) % 256 ||| b.toNat % 256 :=
    packWord_toNat_mod serial b 1 (k := 8) (by decide)
  rw [Nat.div_eq_of_lt b.isLt, Nat.or_zero] at hdiv
  rw [Nat.shiftLeft_eq, Nat.mul_mod_left, Nat.zero_or, Nat.mod_eq_of_lt b.isLt] at hmod
  rw [splitWord_prn, hdiv, hmod, BitVec.ofNat_toNat, BitVec.setWidth_eq, if_pos hb]

/-- A button packed in 4 bits shares the low byte with the low digit of the serial, on which SPLIT bases its test (R121,
R123). -/
theorem splitWord_packWord_four (serial : Data) (b : Byte) :
    splitWord prn (packWord serial b 0)
      = if Claims.IsSentinel (BitVec.ofNat 8 (((serial.toNat % 16) <<< 4) ||| b.toNat)) then
          .split (BitVec.ofNat 64 ((packWord serial b 0).toNat / 256))
            (BitVec.ofNat 8 (((serial.toNat % 16) <<< 4) ||| b.toNat)) 1
        else .split (BitVec.ofNat 64 (serial.toNat % 2 ^ 60 ||| b.toNat / 16)) (BitVec.ofNat 8 (b.toNat % 16)) 0 := by
  have hdiv : (packWord serial b 0).toNat / 16 = serial.toNat % 2 ^ 60 ||| b.toNat / 16 := packWord_toNat_div serial b 0
  have hmod4 : (packWord serial b 0).toNat % 16 = (serial.toNat <<< 4) % 16 ||| b.toNat % 16 :=
    packWord_toNat_mod serial b 0 (k := 4) (by decide)
  have hmod8 : (packWord serial b 0).toNat % 256 = (serial.toNat <<< 4) % 256 ||| b.toNat % 256 :=
    packWord_toNat_mod serial b 0 (k := 8) (by decide)
  have hdigit : (serial.toNat <<< 4) % 256 = (serial.toNat % 16) <<< 4 := by
    simp only [Nat.shiftLeft_eq]
    omega
  rw [Nat.shiftLeft_eq, Nat.mul_mod_left, Nat.zero_or] at hmod4
  rw [hdigit, Nat.mod_eq_of_lt b.isLt] at hmod8
  rw [splitWord_prn, hdiv, hmod4, hmod8]

/-- The round trip through 4 bits: a sentinel as the low byte answers the other width, and a button above 0xF loses its
high digit (R123). -/
theorem splitWord_packWord_four_iff (serial : Data) (b : Byte) :
    splitWord prn (packWord serial b 0) = .split (BitVec.ofNat 64 (serial.toNat % 2 ^ 60)) b 0
      ↔ b.toNat ≤ 0xF ∧ ¬Claims.IsSentinel (BitVec.ofNat 8 (((serial.toNat % 16) <<< 4) ||| b.toNat)) := by
  rw [splitWord_packWord_four]
  split
  · next hs =>
    refine iff_of_false (fun h => ?_) fun ⟨_, hn⟩ => hn hs
    obtain ⟨-, -, hwidth⟩ := Payload.split.inj h
    exact absurd hwidth (by decide)
  · next hs =>
    constructor
    · intro h
      obtain ⟨-, hbutton, -⟩ := Payload.split.inj h
      exact ⟨by bv_omega, hs⟩
    · rintro ⟨hb, -⟩
      rw [Nat.div_eq_of_lt (Nat.lt_succ_of_le hb), Nat.or_zero, Nat.mod_eq_of_lt (Nat.lt_succ_of_le hb),
        BitVec.ofNat_toNat, BitVec.setWidth_eq]

/-- The response a SPLIT adds tells its fields: two answers agree only when their payloads do (R292). -/
theorem exec_split_eq_answered_iff (data : Data) (s : State) (p : Payload) :
    exec (.split data) s = .next (Claims.answered s .ok p) ↔ splitWord prn data = p := by
  simp [State.respond]

/-- Settles O25: the two round trips of the packed word. -/
theorem packSplitRoundTrip : Obligations.PackSplitRoundTrip := by
  refine fun serial b s => ⟨fun hb => ⟨packWord serial b 1, rfl, ?_⟩, packWord serial b 0, rfl, ?_⟩
  · exact (exec_split_eq_answered_iff _ _ _).mpr (splitWord_packWord_eight serial hb)
  · exact (exec_split_eq_answered_iff _ _ _).trans (splitWord_packWord_four_iff serial b)

end Sys2Proof.Machine
end

section
/-! The Frame Decoder (R150 to R172): FEED in each decoder state, the frame boundary, and DRST, RDREC and HASH: the
transitions of the family 42_decoder.md. -/

namespace Sys2Proof.Machine

/-! ## FEED in each decoder state -/

/-- The decoder working registers after a high event is taken in ArmedHigh (R154). -/
def DecRegs.takeHigh (d : DecRegs) (dur : Dur) : DecRegs :=
  { d with state := .armedLow, tlast := dur, sum := addDuration d.sum dur }

section
variable {c : Config} {level : Bit} {dur : Dur} {d : DecRegs} {r : RecRegs}

theorem feedRegs_idle_preamble (hs : d.state = .idle) (hp : isPreamble c dur = true) :
    feedRegs c 0 dur d r = ⟨d.rearm, r, false⟩ := by
  simp [feedRegs, hs, feedIdle, hp]

theorem feedRegs_idle_other (hs : d.state = .idle) (h : ¬(level = 0 ∧ isPreamble c dur = true)) :
    feedRegs c level dur d r = ⟨d, r, false⟩ := by
  rw [feedRegs, hs]
  exact if_neg h

theorem feedRegs_armedHigh_high (hs : d.state = .armedHigh) :
    feedRegs c 1 dur d r = ⟨d.takeHigh dur, r, false⟩ := by
  simp [feedRegs, hs, feedArmedHigh, DecRegs.takeHigh]

theorem feedRegs_armedHigh_low (hs : d.state = .armedHigh) : feedRegs c 0 dur d r = ⟨d.toIdle, r, false⟩ := by
  simp [feedRegs, hs, feedArmedHigh]

theorem feedRegs_armedLow_high (hs : d.state = .armedLow) : feedRegs c 1 dur d r = ⟨d.toIdle, r, false⟩ := by
  simp [feedRegs, hs, feedArmedLow]

theorem feedRegs_armedLow_gap (hs : d.state = .armedLow) (hg : isGap c dur = true) :
    feedRegs c 0 dur d r = frameBoundary c dur d r := by
  simp [feedRegs, hs, feedArmedLow, hg]

theorem feedRegs_armedLow_zero (hs : d.state = .armedLow) (hg : ¬isGap c dur = true)
    (h : isShort c d.tlast = true ∧ isLong c dur = true) :
    feedRegs c 0 dur d r = ⟨d.appendBit 0 dur, r, false⟩ := by
  simp [feedRegs, hs, feedArmedLow, hg, h]

theorem feedRegs_armedLow_one (hs : d.state = .armedLow) (hg : ¬isGap c dur = true)
    (h0 : ¬(isShort c d.tlast = true ∧ isLong c dur = true)) (h1 : isLong c d.tlast = true ∧ isShort c dur = true) :
    feedRegs c 0 dur d r = ⟨d.appendBit 1 dur, r, false⟩ := by
  rw [feedRegs, hs]
  simp [feedArmedLow, hg, if_neg h0, h1]

theorem feedRegs_armedLow_misfit (hs : d.state = .armedLow) (hg : ¬isGap c dur = true)
    (h0 : ¬(isShort c d.tlast = true ∧ isLong c dur = true)) (h1 : ¬(isLong c d.tlast = true ∧ isShort c dur = true)) :
    feedRegs c 0 dur d r = ⟨d.toIdle, r, false⟩ := by
  rw [feedRegs, hs]
  simp [feedArmedLow, hg, if_neg h0, if_neg h1]

end

/-- `s` after `n` FEEDs that finalized nothing, with what they left in the decoder working registers. -/
def State.fed (s : State) (d : DecRegs) (n : Nat) : State :=
  { s with dec := d, responses := s.responses ++ List.replicate n ⟨.ok, .found 0⟩ }

section
variable (s : State) (d : DecRegs) (n : Nat)

@[simp] theorem State.fed_dec : (s.fed d n).dec = d := rfl
@[simp] theorem State.fed_record : (s.fed d n).record = s.record := rfl
@[simp] theorem State.fed_responses :
    (s.fed d n).responses = s.responses ++ List.replicate n ⟨.ok, .found 0⟩ := rfl

theorem State.fed_zero : s.fed s.dec 0 = s := by
  simp [State.fed]

theorem State.fed_fed (d' : DecRegs) (m : Nat) : (s.fed d n).fed d' m = s.fed d' (n + m) := by
  simp [State.fed]

end

/-- A FEED that does not finalize writes decoder working registers only (R31). -/
theorem exec_feed_eq_fed {level : Bit} {dur : Dur} {s : State} {d : DecRegs}
    (h : feedRegs prn level dur s.dec s.record = ⟨d, s.record, false⟩) :
    exec (.feed level dur) s = .next (s.fed d 1) := by
  rw [exec_feed, State.feed, h]
  rfl

/-- Settles O6: the preamble window of R7 in Idle. -/
theorem feedIdlePreamble : Obligations.FeedIdlePreamble := fun dur _ hs hlo hhi =>
  exec_feed_eq_fed (feedRegs_idle_preamble hs ((isPreamble_prn_iff dur).mpr ⟨hlo, hhi⟩))

/-- Settles O7: an event that is high or outside the preamble window of R7. -/
theorem feedIdleOther : Obligations.FeedIdleOther := by
  intro level dur s hs hout
  refine exec_feed_eq_fed (feedRegs_idle_other hs ?_)
  rintro ⟨rfl, hp⟩
  obtain ⟨hlo, hhi⟩ := (isPreamble_prn_iff dur).mp hp
  rcases hout with hlevel | hlt | hgt
  · exact absurd hlevel (by decide)
  · exact absurd hlt (by omega)
  · exact absurd hgt (by omega)

/-- Settles O8: the high event in ArmedHigh. -/
theorem feedArmedHighTakesHigh : Obligations.FeedArmedHighTakesHigh := fun _ _ hs =>
  exec_feed_eq_fed (feedRegs_armedHigh_high hs)

/-- Settles O9: the low event in ArmedHigh. -/
theorem feedArmedHighLowGoesIdle : Obligations.FeedArmedHighLowGoesIdle := fun _ _ hs =>
  exec_feed_eq_fed (feedRegs_armedHigh_low hs)

/-- Settles O10: the high event in ArmedLow. -/
theorem feedArmedLowHighGoesIdle : Obligations.FeedArmedLowHighGoesIdle := fun _ _ hs =>
  exec_feed_eq_fed (feedRegs_armedLow_high hs)

theorem not_isGap_prn {dur : Dur} (h : dur.toNat < 2340) : ¬isGap prn dur = true := by
  rw [isGap_prn_iff]
  omega

/-- Appending a bit is exact arithmetic cut to 64 bits (R105). -/
theorem shiftIn_eq_ofNat (acc : Data) (b : Bit) : shiftIn acc b = BitVec.ofNat 64 ((acc.toNat <<< 1) ||| b.toNat) := by
  have hshift : acc <<< 1 = BitVec.ofNat 64 (acc.toNat <<< 1) := rfl
  rw [shiftIn, BitVec.ofNat_or, BitVec.ofNat_toNat, hshift]

/-- Settles O11: the pair (short, long) before the pair (long, short), and the three laws of a bit. -/
theorem feedArmedLowAppendsBit : Obligations.FeedArmedLowAppendsBit := by
  intro dur s b hs hlt hb
  have happend : feedRegs prn 0 dur s.dec s.record = ⟨s.dec.appendBit b dur, s.record, false⟩ := by
    simp only [Claims.InShort, Claims.InLong, ← isShort_prn_iff, ← isLong_prn_iff] at hb
    rcases hb with ⟨rfl, h0⟩ | ⟨rfl, h0, h1⟩
    · exact feedRegs_armedLow_zero hs (not_isGap_prn hlt) h0
    · exact feedRegs_armedLow_one hs (not_isGap_prn hlt) h0 h1
  rw [exec_feed_eq_fed happend, DecRegs.appendBit, shiftIn_eq_ofNat]
  rfl

/-- Settles O12: neither pair of R158. -/
theorem feedArmedLowMisfitGoesIdle : Obligations.FeedArmedLowMisfitGoesIdle := by
  intro dur s hs hlt h0 h1
  simp only [Claims.InShort, Claims.InLong, ← isShort_prn_iff, ← isLong_prn_iff] at h0 h1
  exact exec_feed_eq_fed (feedRegs_armedLow_misfit hs (not_isGap_prn hlt) h0 h1)

/-! ## The frame boundary -/

/-- Repeat validation under the R6 values (R161). -/
theorem DecRegs.validates_prn_iff (d : DecRegs) :
    d.validates prn = true ↔ d.cnt = 24 ∧ d.acc = d.prev ∧ d.prev ≠ 0 := by
  have hcnt : d.cnt.toNat = prn.minBits ↔ d.cnt = 24 := BitVec.toNat_inj (x := d.cnt) (y := 24)
  rw [DecRegs.validates_iff, hcnt]

/-- Settles O13: the boundary writes the same decoder registers either way; the record and the response turn on R161. -/
theorem feedBoundary : Obligations.FeedBoundary := by
  intro dur s hs hdur
  rw [exec_feed, State.feed, feedRegs_armedLow_gap hs ((isGap_prn_iff dur).mpr hdur)]
  simp only [frameBoundary, ← DecRegs.validates_prn_iff]
  by_cases hv : s.dec.validates prn = true
  · obtain ⟨hcnt, -, -⟩ := (DecRegs.validates_prn_iff s.dec).mp hv
    rw [if_pos hv, finalizedRecord_of_validates hv, hcnt, if_pos hv, if_pos hv, hv]
    rfl
  · rw [if_neg hv, if_neg hv, if_neg hv, Bool.eq_false_iff.mpr hv]
    rfl

theorem DecRegs.prevAfterBoundary_always {c : Config} (h : c.prevUpdate = .always) (d : DecRegs) :
    d.prevAfterBoundary c = d.acc := if_pos (.inl h)

theorem DecRegs.prevAfterBoundary_full {c : Config} {d : DecRegs} (h : d.cnt.toNat = c.minBits) :
    d.prevAfterBoundary c = d.acc := if_pos (.inr h)

theorem DecRegs.prevAfterBoundary_short {c : Config} {d : DecRegs} (h : c.prevUpdate = .fullOnly)
    (hcnt : d.cnt.toNat ≠ c.minBits) : d.prevAfterBoundary c = d.prev :=
  if_neg (by simp [h, hcnt])

/-- Settles O14: at a boundary the previous-frame word is the one R165 chooses. -/
theorem previousFrameUpdate : Obligations.PreviousFrameUpdate := by
  refine ⟨rfl, fun c dur d r hs hg => ?_⟩
  rw [feedRegs_armedLow_gap hs hg]
  exact ⟨fun h => DecRegs.prevAfterBoundary_always h d, fun _ => DecRegs.prevAfterBoundary_full,
    DecRegs.prevAfterBoundary_short⟩

/-- Settles O15: a gap is a boundary whatever the windows are, and a boundary clears the accumulators (R166). -/
theorem gapNeverClassifies : Obligations.GapNeverClassifies := by
  intro c dur d r hs hg
  rw [feedRegs_armedLow_gap hs hg]
  exact ⟨rfl, rfl, rfl, rfl, rfl⟩

/-! ## DRST, RDREC, HASH -/

/-- Settles O17, from the meaning of DRST. -/
theorem decoderResetClears : Obligations.DecoderResetClears := ⟨opcodeOf_encode _, exec_drst⟩

/-- Settles O18, from the meaning of RDREC. -/
theorem recordRead : Obligations.RecordRead := ⟨opcodeOf_encode _, exec_rdrec⟩

/-- The default checksum takes the record's bytes one by one, from the least significant (R171). -/
theorem xorBytes_recordBytes (r : RecRegs) :
    xorBytes (recordBytes r)
      = (List.range (hashLength r.bits)).foldl (fun h k => h ^^^ r.data.extractLsb' (8 * k) 8) 0 :=
  List.foldl_map

/-- Settles O19: the checksum of the record's bytes. -/
theorem hashOfRecord : Obligations.HashOfRecord := by
  refine ⟨opcodeOf_encode _, fun s => ?_⟩
  have hhash : prn.hashFn (recordBytes s.record) = xorBytes (recordBytes s.record) := rfl
  rw [exec_hash, hhash, xorBytes_recordBytes]
  rfl

end Sys2Proof.Machine
end

section
/-! How many FEEDs a finalize needs (R170, R284): a potential of the decoder working registers that one FEED lowers by at
most one, and that stands at 1 when a FEED finalizes. -/

namespace Sys2Proof.Machine

/-- A lower bound on the FEEDs up to and including a finalize, from ArmedHigh: with no previous-frame word yet, a frame
that leaves one (its first bit first, when `DEC_ACC` is 0) and a full frame; with one, the rest of the running frame, or
a full frame when more than 24 bits are counted. -/
def DecRegs.feedsFromHigh (d : DecRegs) : Nat :=
  if d.prev = 0 then (if d.acc = 0 then 54 else 52)
  else if d.cnt.toNat ≤ 24 then 50 - 2 * d.cnt.toNat else 50

/-- The same bound in every state: from ArmedLow the high event has been taken, and from Idle a preamble comes first. -/
def DecRegs.feedsToFinalize (d : DecRegs) : Nat :=
  match d.state with
  | .idle => if d.prev = 0 then 55 else 51
  | .armedHigh => d.feedsFromHigh
  | .armedLow => d.feedsFromHigh - 1

section
variable {d : DecRegs}

theorem feedsToFinalize_of_idle (hs : d.state = .idle) : d.feedsToFinalize = if d.prev = 0 then 55 else 51 := by
  simp [DecRegs.feedsToFinalize, hs]

theorem feedsToFinalize_of_armedHigh (hs : d.state = .armedHigh) : d.feedsToFinalize = d.feedsFromHigh := by
  simp [DecRegs.feedsToFinalize, hs]

theorem feedsToFinalize_of_armedLow (hs : d.state = .armedLow) : d.feedsToFinalize = d.feedsFromHigh - 1 := by
  simp [DecRegs.feedsToFinalize, hs]

end

theorem feedsFromHigh_of_prev_eq_zero {d : DecRegs} (h : d.prev = 0) :
    d.feedsFromHigh = if d.acc = 0 then 54 else 52 := if_pos h

theorem feedsFromHigh_of_prev_ne_zero {d : DecRegs} (h : d.prev ≠ 0) :
    d.feedsFromHigh = if d.cnt.toNat ≤ 24 then 50 - 2 * d.cnt.toNat else 50 := if_neg h

/-- A frame takes at least one FEED less than a preamble and a frame. -/
theorem feedsFromHigh_lt_idle (d : DecRegs) : d.feedsFromHigh < if d.prev = 0 then 55 else 51 := by
  unfold DecRegs.feedsFromHigh
  split_ifs <;> omega

/-- No state needs more than Idle does. -/
theorem feedsToFinalize_le_idle (d : DecRegs) : d.feedsToFinalize ≤ if d.prev = 0 then 55 else 51 := by
  have hlt := feedsFromHigh_lt_idle d
  cases hs : d.state with
  | idle => rw [feedsToFinalize_of_idle hs]
  | armedHigh => rw [feedsToFinalize_of_armedHigh hs]; exact hlt.le
  | armedLow => rw [feedsToFinalize_of_armedLow hs]; exact (Nat.sub_le _ _).trans hlt.le

/-- No state needs more than the one DRST leaves. -/
theorem feedsToFinalize_le (d : DecRegs) : d.feedsToFinalize ≤ 55 :=
  (feedsToFinalize_le_idle d).trans (by split_ifs <;> decide)

/-- With the accumulators clear a whole frame is to come. -/
theorem feedsFromHigh_of_clear {d : DecRegs} (hacc : d.acc = 0) (hcnt : d.cnt = 0) :
    d.feedsFromHigh = if d.prev = 0 then 54 else 50 := by
  simp [DecRegs.feedsFromHigh, hacc, hcnt]

/-- A bit takes two FEEDs off at the most, also where the count wraps (R106). -/
theorem feedsFromHigh_appendBit (d : DecRegs) (b : Bit) (dur : Dur) :
    d.feedsFromHigh ≤ (d.appendBit b dur).feedsFromHigh + 2 := by
  by_cases hprev : d.prev = 0
  · rw [feedsFromHigh_of_prev_eq_zero hprev, feedsFromHigh_of_prev_eq_zero (d := d.appendBit b dur) hprev]
    split_ifs <;> omega
  · have hcnt : (d.appendBit b dur).cnt.toNat = (d.cnt.toNat + 1) % 256 := BitVec.toNat_ofNat ..
    have hlt := d.cnt.isLt
    rw [feedsFromHigh_of_prev_ne_zero hprev, feedsFromHigh_of_prev_ne_zero (d := d.appendBit b dur) hprev, hcnt]
    split_ifs <;> omega

/-- A boundary is one FEED, and what it leaves in `DEC_PREV` is `DEC_ACC`: a whole frame is to come, and where that word
is 0 the one-bit frame too (R165, R166). -/
theorem feedsToFinalize_boundary (d : DecRegs) (r : RecRegs) (dur : Dur) :
    d.feedsFromHigh - 1 ≤ (frameBoundary prn dur d r).dec.feedsToFinalize + 1 := by
  have hprev : d.prevAfterBoundary prn = d.acc := DecRegs.prevAfterBoundary_always rfl d
  have hnew : (frameBoundary prn dur d r).dec.feedsToFinalize = if d.acc = 0 then 54 else 50 := by
    rw [feedsToFinalize_of_armedHigh rfl, feedsFromHigh_of_clear rfl rfl, ← hprev]
    rfl
  rw [hnew]
  unfold DecRegs.feedsFromHigh
  split_ifs <;> omega

/-- One FEED brings a finalize nearer by one FEED at the most. -/
theorem feedsToFinalize_le_feed (level : Bit) (dur : Dur) (d : DecRegs) (r : RecRegs) :
    d.feedsToFinalize ≤ (feedRegs prn level dur d r).dec.feedsToFinalize + 1 := by
  rcases feedRegs_cases prn level dur d r with
    ⟨-, -, h⟩ | ⟨hs, -, -, h⟩ | ⟨hs, -, h⟩ | ⟨-, h⟩ | ⟨hs, -, -, h⟩ | ⟨hs, -, -, b, h⟩
  · rw [h]
    exact Nat.le_succ _
  · have hrearm : d.rearm.feedsToFinalize = if d.prev = 0 then 54 else 50 :=
      feedsFromHigh_of_clear (d := d.rearm) rfl rfl
    rw [h, hrearm, feedsToFinalize_of_idle hs]
    split_ifs <;> omega
  · rw [h, feedsToFinalize_of_armedHigh hs]
    exact Nat.le_add_of_sub_le le_rfl
  · rw [h]
    exact (feedsToFinalize_le_idle d).trans (Nat.le_succ _)
  · rw [h, feedsToFinalize_of_armedLow hs]
    exact feedsToFinalize_boundary d r dur
  · have hbit := feedsFromHigh_appendBit d b dur
    have hnew : (d.appendBit b dur).feedsToFinalize = (d.appendBit b dur).feedsFromHigh := rfl
    rw [h, feedsToFinalize_of_armedLow hs, hnew]
    omega

/-- A FEED that finalizes ends a full frame that repeats a previous-frame word. -/
theorem feedsToFinalize_of_found {level : Bit} {dur : Dur} {d : DecRegs} {r : RecRegs}
    (h : (feedRegs prn level dur d r).found = true) : d.feedsToFinalize = 1 := by
  rcases feedRegs_record prn level dur d r with ⟨hf, -⟩ | ⟨-, -, hs, -, -, hv⟩
  · simp [hf] at h
  · obtain ⟨hcnt, -, hprev⟩ := (DecRegs.validates_prn_iff d).mp hv
    rw [feedsToFinalize_of_armedLow hs, feedsFromHigh_of_prev_ne_zero hprev, hcnt]
    rfl

/-! ## Runs with too few FEEDs -/

theorem isFeed_eq_false_iff (i : Instr) : isFeed i = false ↔ ∀ l d, i ≠ .feed l d := by
  cases i <;> simp [isFeed]

/-- A command other than FEED keeps the decoder working registers (R20), or is DRST and clears them (R170). -/
theorem exec_feedsToFinalize_of_not_feed {i : Instr} (hi : ∀ l d, i ≠ .feed l d) {s t : State} (h : exec i s = .next t) :
    s.dec.feedsToFinalize ≤ t.dec.feedsToFinalize := by
  by_cases hdrst : i = .drst
  · subst hdrst
    obtain rfl := Host.Outcome.next.inj h
    exact feedsToFinalize_le s.dec
  · obtain ⟨t', ht', -, hdec, -⟩ := registersWrittenOnlyByTheirCommands i s
    obtain rfl : t' = t := Host.Outcome.next.inj (ht'.symm.trans h)
    rw [hdec hi hdrst]

/-- One command of a run with too few FEEDs for a finalize: it does not finalize, and too few are left. -/
theorem exec_no_finalize {i : Instr} {rest : List Instr} {s : State}
    (h : (i :: rest).countP isFeed < s.dec.feedsToFinalize) :
    ∃ t r, exec i s = .next t ∧ t.responses = s.responses ++ [r] ∧ r.payload ≠ .found 1 ∧ t.record = s.record
      ∧ rest.countP isFeed < t.dec.feedsToFinalize := by
  by_cases hi : ∃ l d, i = .feed l d
  · obtain ⟨level, dur, rfl⟩ := hi
    rw [List.countP_cons_of_pos rfl] at h
    have hle := feedsToFinalize_le_feed level dur s.dec s.record
    rcases feedRegs_record prn level dur s.dec s.record with ⟨hf, hrec⟩ | ⟨hf, -⟩
    · refine ⟨_, _, exec_feed .., State.feed_responses .., by simp [hf, flagBit], hrec, ?_⟩
      rw [State.feed_dec]
      omega
    · rw [feedsToFinalize_of_found hf] at h
      omega
  · have hi' : ∀ l d, i ≠ .feed l d := fun l d h => hi ⟨l, d, h⟩
    obtain ⟨t, ht, he⟩ := exec_effect i s
    obtain ⟨r, hresp, hr⟩ := he.response hi'
    rw [List.countP_cons_of_neg (by simp [(isFeed_eq_false_iff i).mpr hi'])] at h
    exact ⟨t, r, ht, hresp, hr 1, he.record_eq hi', h.trans_le (exec_feedsToFinalize_of_not_feed hi' ht)⟩

/-- A run with fewer FEEDs than a finalize needs answers no `found = 1` and keeps the record. -/
theorem execAll_no_finalize (is : List Instr) (s : State) (h : is.countP isFeed < s.dec.feedsToFinalize) :
    ∃ u answers, execAll is s = .next u ∧ u.responses = s.responses ++ answers
      ∧ (∀ r ∈ answers, r.payload ≠ .found 1) ∧ u.record = s.record := by
  induction is generalizing s with
  | nil => exact ⟨s, [], rfl, by simp, by simp, rfl⟩
  | cons i rest ih =>
    obtain ⟨t, r, ht, hresp, hr, hrec, hrest⟩ := exec_no_finalize h
    obtain ⟨u, answers, hu, huresp, hanswers, hurec⟩ := ih t hrest
    refine ⟨u, r :: answers, (execAll_cons ht).trans hu, ?_, List.forall_mem_cons.mpr ⟨hr, hanswers⟩, hurec.trans hrec⟩
    rw [huresp, hresp, List.append_assoc, List.singleton_append]

/-- Settles O53: after DRST a finalize needs 55 FEEDs. -/
theorem decoderResetHoldsOffFinalize : Obligations.DecoderResetHoldsOffFinalize := by
  intro s t h is hcount
  obtain rfl := Host.Outcome.next.inj ((exec_drst s).symm.trans h)
  exact execAll_no_finalize is _ (Nat.lt_succ_of_le hcount)

end Sys2Proof.Machine
end

section
/-! What the decoder makes of a pass of the encoder (R154 to R166, R196): cell by cell, then the stop pulse and the guard
gap, and two passes one after the other. -/

namespace Sys2Proof.Machine

/-! ## A cell -/

/-- The first pulse of a sequence, fed, where it finalizes nothing. -/
theorem execAll_feedsOf_cons {p : Pulse} {ps : List Pulse} {s : State} {d : DecRegs}
    (h : feedRegs prn p.level p.dur s.dec s.record = ⟨d, s.record, false⟩) :
    execAll (Claims.feedsOf (p :: ps)) s = execAll (Claims.feedsOf ps) (s.fed d 1) :=
  execAll_cons (exec_feed_eq_fed h)

/-- The decoder working registers after the two FEEDs of a cell. -/
def DecRegs.afterCell (d : DecRegs) (te : Dur) (b : Bool) : DecRegs :=
  let high := if b then longPulse te else te
  let low := if b then te else longPulse te
  (d.takeHigh high).appendBit (flagBit b) low

section
variable {te : Dur} (hlo : 91 ≤ te.toNat) (hhi : te.toNat ≤ 689)

/-- A long pulse is not cut at a time unit whose cells classify (R110). -/
theorem longPulse_toNat (h : te.toNat ≤ 689) : (longPulse te).toNat = 3 * te.toNat := by
  rw [longPulse, trunc32, BitVec.toNat_ofNat, Nat.mod_eq_of_lt (by omega)]

include hlo hhi

/-- For a 1 the pair (short, long) does not fit: the high pulse lies above the short window or the low one below the long
window (R7, R158). -/
theorem not_isShort_longPulse_and_isLong : ¬(isShort prn (longPulse te) = true ∧ isLong prn te = true) := by
  rw [isShort_prn_iff, isLong_prn_iff, longPulse_toNat hhi]
  omega

/-- The low pulse of a cell is no gap and appends the cell's bit (R158). -/
theorem feedRegs_cell_low (b : Bool) {d : DecRegs} (hs : d.state = .armedLow)
    (ht : d.tlast = if b then longPulse te else te) (r : RecRegs) :
    feedRegs prn 0 (if b then te else longPulse te) d r
      = ⟨d.appendBit (flagBit b) (if b then te else longPulse te), r, false⟩ := by
  have hlong_toNat := longPulse_toNat hhi
  have hshort : isShort prn te = true := (isShort_prn_iff te).mpr ⟨hlo, hhi⟩
  have hlong : isLong prn (longPulse te) = true := (isLong_prn_iff _).mpr (by omega)
  cases b with
  | false =>
    have htlast : d.tlast = te := ht
    rw [← htlast] at hshort
    exact feedRegs_armedLow_zero hs (not_isGap_prn (dur := longPulse te) (by omega)) ⟨hshort, hlong⟩
  | true =>
    have hmisfit := not_isShort_longPulse_and_isLong hlo hhi
    have htlast : d.tlast = longPulse te := ht
    rw [← htlast] at hlong hmisfit
    exact feedRegs_armedLow_one hs (not_isGap_prn (dur := te) (by omega)) hmisfit ⟨hlong, hshort⟩

/-- A cell appends its bit and is two FEEDs that finalize nothing. -/
theorem execAll_cell (b : Bool) {s : State} (hs : s.dec.state = .armedHigh) :
    execAll (Claims.feedsOf (bitCell te b)) s = .next (s.fed (s.dec.afterCell te b) 2) := by
  have hlow := feedRegs_cell_low hlo hhi b (d := s.dec.takeHigh (if b then longPulse te else te)) rfl rfl s.record
  rw [bitCell_eq, execAll_feedsOf_cons (feedRegs_armedHigh_high hs), execAll_feedsOf_cons hlow, State.fed_fed]
  rfl

end

/-! ## The cells of a pass -/

theorem addDuration_ofNat (n : Nat) (d : Dur) :
    addDuration (BitVec.ofNat 32 n) d = BitVec.ofNat 32 (n + d.toNat) := by
  apply BitVec.eq_of_toNat_eq
  simp [addDuration, trunc32]

theorem countBit_ofNat (n : Nat) : countBit (BitVec.ofNat 8 n) = BitVec.ofNat 8 (n + 1) := by
  apply BitVec.eq_of_toNat_eq
  simp [countBit, trunc8]

theorem flagBit_toNat (b : Bool) : (flagBit b).toNat = b.toNat := by
  cases b <;> rfl

theorem shiftIn_ofNat (n : Nat) (b : Bool) :
    shiftIn (BitVec.ofNat 64 n) (flagBit b) = BitVec.ofNat 64 (2 * n + b.toNat) := by
  have hb : b.toNat < 2 ^ 1 := b.toNat_lt
  rw [shiftIn_eq_ofNat, flagBit_toNat, ← Nat.shiftLeft_add_eq_or_of_lt hb, Nat.shiftLeft_eq]
  apply BitVec.eq_of_toNat_eq
  simp only [BitVec.toNat_ofNat]
  omega

/-- The leading bits of a number, one more at a time. -/
theorem div_two_pow_eq_testBit (x m : Nat) : x / 2 ^ m = 2 * (x / 2 ^ (m + 1)) + (x.testBit m).toNat := by
  rw [Nat.toNat_testBit, Nat.pow_succ, ← Nat.div_div_eq_div_mul, Nat.div_add_mod]

/-- The decoder working registers after the first `k` of the 24 cells of the word `x` at the time unit `te`. -/
def passRegs (x : Nat) (te : Dur) (k : Nat) (prev : Data) (tlast : Dur) : DecRegs where
  state := .armedHigh
  acc   := BitVec.ofNat 64 (x / 2 ^ (24 - k))
  cnt   := BitVec.ofNat 8 k
  prev  := prev
  sum   := BitVec.ofNat 32 (4 * te.toNat * k)
  tlast := tlast

theorem passRegs_zero {x : Nat} (hx : x < 2 ^ 24) (te : Dur) {d : DecRegs} (hs : d.state = .armedHigh) (hacc : d.acc = 0)
    (hcnt : d.cnt = 0) (hsum : d.sum = 0) : passRegs x te 0 d.prev d.tlast = d := by
  cases d
  simp_all [passRegs, Nat.div_eq_of_lt]

/-- One more cell: the next bit of the word, most significant first, and four time units. -/
theorem afterCell_passRegs {te : Dur} (hhi : te.toNat ≤ 689) (x : Nat) {k : Nat} (hk : k < 24) (prev : Data)
    (tlast : Dur) :
    (passRegs x te k prev tlast).afterCell te (x.testBit (23 - k))
      = passRegs x te (k + 1) prev (if x.testBit (23 - k) then longPulse te else te) := by
  have hacc : x / 2 ^ (24 - (k + 1)) = 2 * (x / 2 ^ (24 - k)) + (x.testBit (23 - k)).toNat := by
    have hsucc : 24 - k = 23 - k + 1 := by omega
    rw [hsucc, ← div_two_pow_eq_testBit, Nat.add_comm k 1, ← Nat.sub_sub]
  have hsum (b : Bool) : 4 * te.toNat * k + (if b then longPulse te else te).toNat
      + (if b then te else longPulse te).toNat = 4 * te.toNat * (k + 1) := by
    cases b <;> simp [longPulse_toNat hhi] <;> ring
  simp only [DecRegs.afterCell, DecRegs.takeHigh, DecRegs.appendBit, passRegs, shiftIn_ofNat, ← hacc, countBit_ofNat,
    addDuration_ofNat, hsum]

section
variable {te : Dur} (hlo : 91 ≤ te.toNat) (hhi : te.toNat ≤ 689) {s : State} (hs : s.dec.state = .armedHigh)
  (hacc : s.dec.acc = 0) (hcnt : s.dec.cnt = 0) (hsum : s.dec.sum = 0)
include hlo hhi hs hacc hcnt hsum

/-- The first `k` cells of a pass, fed to a decoder with clear accumulators: the leading bits of the 24 that are sent. -/
theorem execAll_cells (data : Data) {k : Nat} (hk : k ≤ 24) :
    ∃ tlast, execAll (Claims.feedsOf ((List.range k).flatMap fun j => bitCell te (data.getLsbD (23 - j)))) s
      = .next (s.fed (passRegs (data.toNat % 2 ^ 24) te k s.dec.prev tlast) (2 * k)) := by
  induction k with
  | zero =>
    refine ⟨s.dec.tlast, ?_⟩
    rw [passRegs_zero (Nat.mod_lt _ (by decide)) te hs hacc hcnt hsum, Nat.mul_zero, State.fed_zero]
    rfl
  | succ k ih =>
    obtain ⟨tlast, ih⟩ := ih (by omega)
    have hbit : data.getLsbD (23 - k) = (data.toNat % 2 ^ 24).testBit (23 - k) := by
      rw [Nat.testBit_mod_two_pow, decide_eq_true (by omega), Bool.true_and]
      rfl
    refine ⟨if (data.toNat % 2 ^ 24).testBit (23 - k) then longPulse te else te, ?_⟩
    rw [List.range_succ, List.flatMap_append, List.flatMap_singleton, feedsOf_append, execAll_append ih,
      execAll_cell hlo hhi _ rfl, State.fed_dec, hbit, afterCell_passRegs hhi _ (by omega), State.fed_fed,
      Nat.mul_succ]

/-- The last FEED of a pass, the guard gap, finds the 24 bits sent, and the 97 time units of the pass in `DEC_SUM`. -/
theorem execAll_pass_eq_exec_gap (data : Data) (g : Nat) :
    execAll (Claims.feedsOf (buildSequence 24 data te g)) s
      = exec (.feed 0 (trunc32 (te.toNat * g)))
          (s.fed ⟨.armedLow, BitVec.ofNat 64 (data.toNat % 2 ^ 24), 24, s.dec.prev, BitVec.ofNat 32 (97 * te.toNat), te⟩
            49) := by
  obtain ⟨tlast, hcells⟩ := execAll_cells hlo hhi hs hacc hcnt hsum data le_rfl
  have hregs : (passRegs (data.toNat % 2 ^ 24) te 24 s.dec.prev tlast).takeHigh te
      = ⟨.armedLow, BitVec.ofNat 64 (data.toNat % 2 ^ 24), 24, s.dec.prev, BitVec.ofNat 32 (97 * te.toNat), te⟩ := by
    have hunits : 4 * te.toNat * 24 + te.toNat = 97 * te.toNat := by ring
    simp [DecRegs.takeHigh, passRegs, addDuration_ofNat, hunits]
  rw [buildSequence, feedsOf_append, bitCells, execAll_append hcells,
    execAll_feedsOf_cons (feedRegs_armedHigh_high rfl), State.fed_fed, State.fed_dec, hregs]
  rfl

end

/-! ## A pass -/

theorem trunc32_toNat_of_lt {n : Nat} (h : n < 2 ^ 32) : (trunc32 n).toNat = n :=
  Nat.mod_eq_of_lt h

/-- The guard ratio of a pass is recovered exactly (R108, R109, R164). -/
theorem guardFor_mul {te g : Nat} (hte : 0 < te) (hlo : 15 ≤ g) (hhi : g ≤ 72) : Claims.guardFor (te * g) te = g := by
  have hraw : (2 * (te * g) + te) / (2 * te) = g := by
    rw [← Nat.mul_assoc, Nat.mul_add_div (by omega), Nat.div_eq_of_lt (by omega), Nat.add_zero]
  simp only [Claims.guardFor, if_neg hte.ne', hraw, hlo, hhi, and_self, if_true]

/-- `s` after a pass of the word `x` at the time unit `te` with the guard ratio `g`: a finalize when the word repeats the
previous one and is not zero (R161 to R164), and in any case a re-armed decoder with the word as the previous one (R165,
R166). -/
def State.afterPass (s : State) (x : Data) (te : Dur) (g : Nat) : State :=
  { s with
    dec := ⟨.armedHigh, 0, 0, x, 0, te⟩
    record := if x = s.dec.prev ∧ s.dec.prev ≠ 0 then ⟨x, 24, te, BitVec.ofNat 8 g⟩ else s.record
    responses := s.responses ++ List.replicate 49 ⟨.ok, .found 0⟩
      ++ [⟨.ok, .found (if x = s.dec.prev ∧ s.dec.prev ≠ 0 then 1 else 0)⟩] }

theorem State.afterPass_responses (s : State) (x : Data) (te : Dur) (g : Nat) :
    ∃ answers, (s.afterPass x te g).responses = s.responses ++ answers :=
  ⟨_, List.append_assoc ..⟩

/-- A pass of the previous word finalizes. -/
theorem State.afterPass_of_repeated {s : State} {x : Data} (hprev : s.dec.prev = x) (hx : x ≠ 0) {te : Dur} {g : Nat} :
    (s.afterPass x te g).record = ⟨x, 24, te, BitVec.ofNat 8 g⟩
      ∧ (s.afterPass x te g).responses
        = s.responses ++ List.replicate 49 ⟨.ok, .found 0⟩ ++ [⟨.ok, .found 1⟩] := by
  have hfound : x = s.dec.prev ∧ s.dec.prev ≠ 0 := ⟨hprev.symm, hprev ▸ hx⟩
  simp only [State.afterPass, if_pos hfound, and_self]

section
variable {te : Dur} (hlo : 91 ≤ te.toNat) (hhi : te.toNat ≤ 689) {g : Nat} (hglo : 15 ≤ g) (hghi : g ≤ 72)
  (hgap : 2340 ≤ te.toNat * g) {s : State} (hs : s.dec.state = .armedHigh) (hacc : s.dec.acc = 0) (hcnt : s.dec.cnt = 0)
  (hsum : s.dec.sum = 0) (data : Data)
include hlo hhi hglo hghi hgap hs hacc hcnt hsum

/-- A pass of the encoder, fed to a decoder with clear accumulators. -/
theorem execAll_pass :
    execAll (Claims.feedsOf (buildSequence 24 data te g)) s
      = .next (s.afterPass (BitVec.ofNat 64 (data.toNat % 2 ^ 24)) te g) := by
  have hdur : (trunc32 (te.toNat * g)).toNat = te.toNat * g :=
    trunc32_toNat_of_lt ((Nat.mul_le_mul hhi hghi).trans_lt (by decide))
  have hte : (BitVec.ofNat 32 (97 * te.toNat)).toNat / 97 = te.toNat := by
    rw [BitVec.toNat_ofNat]
    omega
  have hguard : Claims.guardFor (te.toNat * g) te.toNat = g := guardFor_mul (by omega) hglo hghi
  rw [execAll_pass_eq_exec_gap hlo hhi hs hacc hcnt hsum data g, feedBoundary _ _ rfl (by rwa [hdur]), hdur]
  simp only [State.fed_dec, State.fed_record, State.fed_responses, true_and, hte, hguard, BitVec.ofNat_toNat,
    BitVec.setWidth_eq]
  rfl

/-- Two passes of one word that is not zero: the second finalizes, whatever stood in `DEC_PREV` before the first. -/
theorem execAll_two_passes (hx : data.toNat % 2 ^ 24 ≠ 0) :
    ∃ u earlier, execAll (Claims.feedsOf (buildSequence 24 data te g) ++ Claims.feedsOf (buildSequence 24 data te g)) s
        = .next u
      ∧ u.record = ⟨BitVec.ofNat 64 (data.toNat % 2 ^ 24), 24, te, BitVec.ofNat 8 g⟩
      ∧ u.dec = ⟨.armedHigh, 0, 0, BitVec.ofNat 64 (data.toNat % 2 ^ 24), 0, te⟩
      ∧ u.responses = s.responses ++ earlier ++ [⟨.ok, .found 1⟩] := by
  have hword : BitVec.ofNat 64 (data.toNat % 2 ^ 24) ≠ 0 := by
    intro h
    have hmod : data.toNat % 2 ^ 24 % 2 ^ 64 = 0 := congrArg BitVec.toNat h
    omega
  have hfirst := execAll_pass hlo hhi hglo hghi hgap hs hacc hcnt hsum data
  have hsecond := execAll_pass hlo hhi hglo hghi hgap
    (s := s.afterPass (BitVec.ofNat 64 (data.toNat % 2 ^ 24)) te g) rfl rfl rfl rfl data
  generalize BitVec.ofNat 64 (data.toNat % 2 ^ 24) = x at *
  obtain ⟨earlier, hearlier⟩ := s.afterPass_responses x te g
  obtain ⟨hrec, hresp⟩ := State.afterPass_of_repeated (s := s.afterPass x te g) rfl hword
  rw [hearlier, List.append_assoc s.responses] at hresp
  exact ⟨_, _, (execAll_append hfirst).trans hsecond, hrec, rfl, hresp⟩

end

/-! ## From the encoder to the decoder -/

/-- With `CTX_VBTN` 0 the effective button is the original (R126, R195). -/
theorem effectiveButton_of_vbtn_eq_zero {ctx : CtxRegs} (h : ctx.vbtn = 0) (button : Byte) :
    effectiveButton prn ctx button = originalButton ctx button := by
  rw [effectiveButton_prn, h, remapButton_ok]

/-- The first 50 entries after a CONFIG are the pass it built (R196, R197). -/
theorem take_configured_seq (e : EncRegs) (data : Data) (te : Dur) (g : Nat) (r : Dur) :
    (e.configured 24 (buildSequence 24 data te g) r).seq.take 50 = buildSequence 24 data te g :=
  List.take_left' (buildSequence_length 24 data te g)

/-- Settles O55: CONFIG builds a pass of the word sent, which two passes of FEEDs bring into the record. -/
theorem encodedFrameDecodesExactly : Obligations.EncodedFrameDecodesExactly := by
  intro serial button te guard rep repP s hlo hhi hglo hghi hgap hs hacc hcnt hsum hv o sent hsent
  have hg : configGuard prn guard 1 = guard.toNat := by
    rw [configGuard_prn, if_pos ⟨rfl, hglo, hghi⟩]
  have hword : (configWord prn s.ctx serial button).toNat % 2 ^ 24 = sent := by
    rw [configWord_prn, effectiveButton_of_vbtn_eq_zero hv, BitVec.toNat_ofNat, Nat.mod_mod_of_dvd _ (by decide)]
    rfl
  obtain ⟨u, earlier, hu, hrec, hdec, hresp⟩ :=
    execAll_two_passes hlo hhi hglo hghi hgap (s := s.configure prn serial button 24 te 1 guard 1 rep repP)
      (by simpa) (by simpa) (by simpa) (by simpa) (configWord prn s.ctx serial button) (by rwa [hword])
  rw [hword] at hrec hdec
  refine ⟨_, u, earlier, exec_config .., ?_, hrec, hdec, hresp⟩
  rw [configure_enc_of_good, take_configured_seq, hg]
  exact hu

end Sys2Proof.Machine
end

section
/-! The commands of the encoder: the failures of CONFIG (R191, R192), NEXT and STOP (R200, R201, R203), and a whole
playback (R202): the facts of the family 43_encoder.md. -/

namespace Sys2Proof.Machine

/-! ## The failures of CONFIG -/

section
variable {c : Config} {bits : Byte}

theorem configFailure_of_te_absent : configFailure c bits 0 = some .errMissingTe := if_pos rfl

theorem configFailure_of_bits_ne (hb : bits.toNat ≠ c.minBits) : configFailure c bits 1 = some .errBitCount := by
  rw [configFailure, if_neg (by decide), if_pos hb]

theorem configFailure_of_capacity_lt (hb : bits.toNat = c.minBits) (hc : c.encCapacity < 2 * bits.toNat + 2) :
    configFailure c bits 1 = some .errCapacity := by
  rw [configFailure, if_neg (by decide), if_neg (not_not_intro hb), if_pos hc]

theorem configFailure_of_fits (hb : bits.toNat = c.minBits) (hc : 2 * bits.toNat + 2 ≤ c.encCapacity) :
    configFailure c bits 1 = none := by
  rw [configFailure, if_neg (by decide), if_neg (not_not_intro hb), if_neg hc.not_gt]

end

section
variable {c : Config} {serial : Data} {button bits : Byte} {te : Dur} {teP : Bit} {guard : Dur} {guardP : Bit}
  {rep : Dur} {repP : Bit} {s : State}

/-- A CONFIG that fails answers its failure and writes nothing (R192). -/
theorem configure_of_failure {st : Status} (h : configFailure c bits teP = some st) :
    s.configure c serial button bits te teP guard guardP rep repP = s.failWith st := by
  rw [State.configure, h]

/-- A CONFIG that meets no failing condition answers OK (R190). -/
theorem configure_responses_of_success (h : configFailure c bits teP = none) :
    (s.configure c serial button bits te teP guard guardP rep repP).responses = s.responses ++ [⟨.ok, .none⟩] := by
  rw [State.configure, h]
  rfl

end

/-- Settles O26: the two failures that can occur under the R6 values. -/
theorem failedConfigWritesNothing : Obligations.FailedConfigWritesNothing := by
  intro serial button bits te teP guard guardP rep repP s hfail
  rw [exec_config]
  rcases bit_zero_or_one teP with rfl | rfl
  · rw [configure_of_failure configFailure_of_te_absent]
    rfl
  · have hbits : bits ≠ 24 := hfail.resolve_left (by decide)
    have hcount : bits.toNat ≠ prn.minBits := fun h => hbits (BitVec.eq_of_toNat_eq h)
    rw [configure_of_failure (configFailure_of_bits_ne hcount)]
    rfl

/-- Settles O27: the four outcomes of the validation; the R6 values leave room for exactly 24 bits. -/
theorem configValidationOrder : Obligations.ConfigValidationOrder := by
  intro c serial button bits te teP guard guardP rep repP s
  refine ⟨?_, ?_, ?_, ?_, by decide⟩
  · rintro rfl
    exact configure_of_failure configFailure_of_te_absent
  · rintro rfl hb
    exact configure_of_failure (configFailure_of_bits_ne hb)
  · rintro rfl hb hc
    exact configure_of_failure (configFailure_of_capacity_lt hb hc)
  · rintro rfl hb hc
    exact configure_responses_of_success (configFailure_of_fits hb hc)

/-! ## NEXT and STOP -/

theorem nextPulse_of_finished {s : State} (h : s.enc.rep = 0 ∨ s.enc.run = 0) :
    s.nextPulse = (s.withEnc s.enc.clearRun).respond .ok (.pulse 0 0 0) := by
  rcases nextPulse_cases s with ⟨-, h'⟩ | ⟨hrep, hrun, -⟩
  · exact h'
  · rcases h with hrep' | hrun'
    · exact absurd hrep' hrep
    · simp [hrun] at hrun'

theorem nextPulse_of_playing {s : State} (hrep : s.enc.rep ≠ 0) (hrun : s.enc.run = 1) :
    s.nextPulse = (s.withEnc s.enc.advance).respond .ok (.pulse 1 s.pulseAtCursor.level s.pulseAtCursor.dur) := by
  rcases nextPulse_cases s with ⟨hrep' | hrun', -⟩ | ⟨-, -, h⟩
  · exact absurd hrep' hrep
  · simp [hrun] at hrun'
  · exact h

/-- Moving on, in numbers (R200, R201): a repeat count that is not 0 goes down without a wrap. -/
theorem EncRegs.advance_eq_ite {e : EncRegs} (hrep : e.rep ≠ 0) :
    e.advance = if e.cur.toNat + 1 = e.len.toNat then { e with cur := 0, rep := BitVec.ofNat 32 (e.rep.toNat - 1) }
      else { e with cur := BitVec.ofNat 8 (e.cur.toNat + 1) } := by
  have hdown : e.rep - 1 = BitVec.ofNat 32 (e.rep.toNat - 1) := by bv_omega
  have hup : e.cur + 1 = BitVec.ofNat 8 (e.cur.toNat + 1) := by bv_omega
  rw [EncRegs.advance, hdown, hup]

/-- Settles O29: finished, or the pulse at the cursor. -/
theorem nextReturnsPulseAtCursor : Obligations.NextReturnsPulseAtCursor := by
  refine ⟨opcodeOf_encode _, fun s => ⟨fun hfin => ?_, fun hrep hrun => ⟨s.pulseAtCursor, fun q hq => ?_, ?_⟩⟩⟩
  · rw [exec_next, nextPulse_of_finished hfin]
    rfl
  · exact State.pulseAtCursor_of_getElem? hq
  · rw [exec_next, nextPulse_of_playing hrep hrun, EncRegs.advance_eq_ite hrep]
    rfl

/-- Settles O30, from the meaning of STOP. -/
theorem stopClearsRun : Obligations.StopClearsRun := ⟨opcodeOf_encode _, exec_stop⟩

/-! ## A whole playback -/

/-- NEXT may read the entry at the cursor (R61): the cursor lies below the length, the length within the entries. -/
def EncRegs.CursorValid (e : EncRegs) : Prop := e.cur.toNat < e.len.toNat ∧ e.len.toNat ≤ e.seq.length

/-- How many pulses playback still returns (R202): what is left of this pass, and the passes after it. -/
def EncRegs.pulsesLeft (e : EncRegs) : Nat := if e.run = 1 then e.rep.toNat * e.len.toNat - e.cur.toNat else 0

/-- The response of the NEXT after `k` more NEXTs: the entry `k` places after the cursor, counted round the pass, or
finished once no pulse is left (R202). -/
def EncRegs.playback (e : EncRegs) (k : Nat) : Response :=
  if k < e.pulsesLeft then
    ⟨.ok, .pulse 1 (e.seq.getD ((e.cur.toNat + k) % e.len.toNat) ⟨0, 0⟩).level
      (e.seq.getD ((e.cur.toNat + k) % e.len.toNat) ⟨0, 0⟩).dur⟩
  else ⟨.ok, .pulse 0 0 0⟩

section
variable {e : EncRegs}

theorem EncRegs.pulsesLeft_of_finished (h : e.rep = 0 ∨ e.run = 0) : e.pulsesLeft = 0 := by
  rcases h with hrep | hrun
  · simp [EncRegs.pulsesLeft, hrep]
  · simp [EncRegs.pulsesLeft, hrun]

theorem EncRegs.pulsesLeft_clearRun : e.clearRun.pulsesLeft = 0 := EncRegs.pulsesLeft_of_finished (.inr rfl)

theorem EncRegs.playback_of_no_pulsesLeft (h : e.pulsesLeft = 0) (k : Nat) : e.playback k = ⟨.ok, .pulse 0 0 0⟩ :=
  if_neg (by omega)

/-- The cursor after a pulse, before the end of a pass. -/
theorem EncRegs.advance_cur_toNat (hlast : e.cur.toNat + 1 ≠ e.len.toNat) (hcur : e.cur.toNat < e.len.toNat) :
    e.advance.cur.toNat = e.cur.toNat + 1 := by
  rw [EncRegs.advance_of_not_last hlast]
  bv_omega

theorem EncRegs.CursorValid.advance (h : e.CursorValid) : e.advance.CursorValid := by
  obtain ⟨hcur, hlen⟩ := h
  obtain ⟨hseq', hlen', -⟩ := e.advance_frame
  refine ⟨?_, by rwa [hseq', hlen']⟩
  rw [hlen']
  by_cases hlast : e.cur.toNat + 1 = e.len.toNat
  · rw [EncRegs.advance_of_last hlast]
    exact Nat.zero_lt_of_lt hcur
  · rw [EncRegs.advance_cur_toNat hlast hcur]
    omega

/-- Every pulse returned is one pulse less to come. -/
theorem EncRegs.pulsesLeft_advance (h : e.CursorValid) (hrep : e.rep ≠ 0) (hrun : e.run = 1) :
    e.pulsesLeft = e.advance.pulsesLeft + 1 := by
  obtain ⟨hcur, -⟩ := h
  obtain ⟨-, hlen', hrun'⟩ := e.advance_frame
  obtain ⟨r, hr⟩ : ∃ r, e.rep.toNat = r + 1 := Nat.exists_eq_succ_of_ne_zero fun h0 => hrep (BitVec.eq_of_toNat_eq h0)
  rw [EncRegs.pulsesLeft, EncRegs.pulsesLeft, hrun', hlen', if_pos hrun, if_pos hrun, hr]
  by_cases hlast : e.cur.toNat + 1 = e.len.toNat
  · have hdown : (e.rep - 1).toNat = r := by bv_omega
    rw [EncRegs.advance_of_last hlast]
    change (r + 1) * e.len.toNat - e.cur.toNat = (e.rep - 1).toNat * e.len.toNat - 0 + 1
    rw [hdown, Nat.succ_mul]
    omega
  · rw [EncRegs.advance_cur_toNat hlast hcur, EncRegs.advance_of_not_last hlast, hr, Nat.succ_mul]
    omega

/-- After a pulse the cursor stands one place further round the pass. -/
theorem EncRegs.advance_cur_add_mod (hcur : e.cur.toNat < e.len.toNat) (k : Nat) :
    (e.advance.cur.toNat + k) % e.len.toNat = (e.cur.toNat + (k + 1)) % e.len.toNat := by
  by_cases hlast : e.cur.toNat + 1 = e.len.toNat
  · have hround : e.cur.toNat + (k + 1) = k + e.len.toNat := by omega
    rw [EncRegs.advance_of_last hlast, hround, Nat.add_mod_right]
    simp
  · rw [EncRegs.advance_cur_toNat hlast hcur, Nat.add_assoc, Nat.add_comm 1]

/-- The playback after a pulse is the rest of the playback before it. -/
theorem EncRegs.playback_advance (h : e.CursorValid) (hrep : e.rep ≠ 0) (hrun : e.run = 1) (k : Nat) :
    e.advance.playback k = e.playback (k + 1) := by
  obtain ⟨hseq', hlen', -⟩ := e.advance_frame
  simp only [EncRegs.playback, hseq', hlen', EncRegs.advance_cur_add_mod h.1, EncRegs.pulsesLeft_advance h hrep hrun,
    Nat.add_lt_add_iff_right]

/-- While pulses are left, the playback begins with the entry at the cursor. -/
theorem EncRegs.playback_zero (h : e.CursorValid) (hrep : e.rep ≠ 0) (hrun : e.run = 1) {p : Pulse}
    (hp : e.seq[e.cur.toNat]? = some p) : e.playback 0 = ⟨.ok, .pulse 1 p.level p.dur⟩ := by
  have hleft : 0 < e.pulsesLeft := by
    rw [EncRegs.pulsesLeft_advance h hrep hrun]
    omega
  simp only [EncRegs.playback, if_pos hleft, Nat.add_zero, Nat.mod_eq_of_lt h.1, List.getD_eq_getElem?_getD, hp,
    Option.getD_some]

end

/-- One NEXT returns the first response of the playback and leaves the rest of it. -/
theorem nextPulse_playback {s : State} (h : s.enc.CursorValid) :
    s.nextPulse.enc.CursorValid ∧ s.nextPulse.responses = s.responses ++ [s.enc.playback 0]
      ∧ ∀ k, s.nextPulse.enc.playback k = s.enc.playback (k + 1) := by
  rcases nextPulse_cases s with ⟨hfin, hnext⟩ | ⟨hrep, hrun, -⟩
  · have hplay := EncRegs.playback_of_no_pulsesLeft (EncRegs.pulsesLeft_of_finished hfin)
    rw [hnext, hplay]
    refine ⟨h, rfl, fun k => ?_⟩
    rw [hplay]
    exact EncRegs.playback_of_no_pulsesLeft EncRegs.pulsesLeft_clearRun k
  · have hp := List.getElem?_eq_getElem (h.1.trans_le h.2)
    rw [nextPulse_of_entry hrep hrun hp, EncRegs.playback_zero h hrep hrun hp]
    exact ⟨h.advance, rfl, EncRegs.playback_advance h hrep hrun⟩

/-- Any number of NEXTs returns as many responses of the playback, in order. -/
theorem execAll_next_playback (n : Nat) {s : State} (h : s.enc.CursorValid) :
    ∃ u, execAll (List.replicate n .next) s = .next u
      ∧ u.responses = s.responses ++ (List.range n).map s.enc.playback := by
  induction n generalizing s with
  | zero => exact ⟨s, rfl, (List.append_nil _).symm⟩
  | succ n ih =>
    obtain ⟨hvalid, hresp, hrest⟩ := nextPulse_playback h
    obtain ⟨u, hu, hur⟩ := ih hvalid
    refine ⟨u, ?_, ?_⟩
    · rw [List.replicate_succ, execAll_cons (exec_next s), hu]
    · rw [hur, hresp, funext hrest, List.append_assoc, List.range_succ_eq_map, List.map_cons, List.map_map]
      rfl

section
variable (e : EncRegs) (data : Data) (te : Dur) (g : Nat) (r : Dur)

/-- A 24-bit pass is written over the first 50 entries, whatever the old sequence held (R196). -/
theorem EncRegs.configured_seq_length : 50 ≤ (e.configured 24 (buildSequence 24 data te g) r).seq.length := by
  rw [EncRegs.configured, writeSeq_length, buildSequence_length]
  exact le_max_left ..

theorem EncRegs.configured_cursorValid : (e.configured 24 (buildSequence 24 data te g) r).CursorValid :=
  ⟨Nat.zero_lt_succ _, e.configured_seq_length data te g r⟩

theorem EncRegs.configured_pulsesLeft (built : List Pulse) : (e.configured 24 built r).pulsesLeft = r.toNat * 50 := rfl

/-- After a CONFIG the NEXTs return the 50 entries `r` times over (R202). -/
theorem EncRegs.configured_playback (built : List Pulse) (k : Nat) :
    (e.configured 24 built r).playback k = if k < r.toNat * 50 then
        ⟨.ok, .pulse 1 ((e.configured 24 built r).seq.getD (k % 50) ⟨0, 0⟩).level
          ((e.configured 24 built r).seq.getD (k % 50) ⟨0, 0⟩).dur⟩
      else ⟨.ok, .pulse 0 0 0⟩ := by
  have hplace : ((e.configured 24 built r).cur.toNat + k) % (e.configured 24 built r).len.toNat = k % 50 :=
    congrArg (· % 50) (Nat.zero_add k)
  rw [EncRegs.playback, EncRegs.configured_pulsesLeft, hplace]

end

/-- Settles O31: CONFIG leaves the cursor at entry 0 of 50, with `r * 50` pulses to come, and the NEXTs after it return
that playback. -/
theorem playbackReturnsExactlyAllRepeats : Obligations.PlaybackReturnsExactlyAllRepeats := by
  intro serial button te guard guardP rep repP s
  refine ⟨_, exec_config .., ?_, fun n => ?_⟩
  · rw [configure_enc_of_good]
    exact EncRegs.configured_seq_length ..
  · obtain ⟨u, hu, hresp⟩ := execAll_next_playback n
      (s := s.configure prn serial button 24 te 1 guard guardP rep repP)
      (by rw [configure_enc_of_good]; exact EncRegs.configured_cursorValid ..)
    refine ⟨u, hu, ?_⟩
    rw [hresp, configure_enc_of_good, funext (EncRegs.configured_playback _ _ _)]
    rfl

end Sys2Proof.Machine
end

section
/-! The commands of the button context (R230 to R235): the facts of the family 44_context.md. -/

namespace Sys2Proof.Machine

/-- Settles O34, from the meanings of the three reads. -/
theorem contextReads : Obligations.ContextReads :=
  ⟨opcodeOf_encode _, opcodeOf_encode _, opcodeOf_encode _, fun s => ⟨exec_getorig s, exec_getvbtn s, exec_getvmax s⟩⟩

/-- Settles O35, from the meanings of the two writes that check nothing. -/
theorem contextWritesOfAnyValue : Obligations.ContextWritesOfAnyValue := fun v s =>
  ⟨opcodeOf_encode _, opcodeOf_encode _, exec_setorig s v, exec_setvmax s v⟩

section
variable {v : Byte} {s : State}

/-- SETVBTN up to `CTX_VMAX`, the maximum included (R233). -/
theorem exec_setvbtn_of_le (h : v.toNat ≤ s.ctx.vmax.toNat) :
    exec (.setvbtn v) s = .next ((s.withCtx { s.ctx with vbtn := v }).respond .ok .none) := by
  rw [exec_setvbtn, if_pos h]

/-- SETVBTN above `CTX_VMAX` fails (R233). -/
theorem exec_setvbtn_of_lt (h : s.ctx.vmax.toNat < v.toNat) :
    exec (.setvbtn v) s = .next (s.failWith .errRange) := by
  rw [exec_setvbtn, if_neg (Nat.not_le_of_lt h)]

end

/-- Settles O36: the value passes the check against `CTX_VMAX`, or it does not. -/
theorem virtualButtonWrite : Obligations.VirtualButtonWrite := fun _ _ =>
  ⟨opcodeOf_encode _, exec_setvbtn_of_le, exec_setvbtn_of_lt⟩

end Sys2Proof.Machine
end

section
/-! The status of every command and when it fails (R251), the isolation of the decoder from the encoder (R260), and the
step that always completes (R250): the facts of the family 60_exceptions.md. -/

namespace Sys2Proof.Machine

/-! ## The status of a response -/

theorem statusOf_of_pureRead {i : Instr} (hi : Claims.IsPureRead i) (s : State) : Claims.statusOf i s = .ok := by
  rcases hi with rfl | rfl | rfl | rfl | rfl | ⟨v, rfl⟩ | ⟨data, rfl⟩ | ⟨serial, button, wsel, rfl⟩ | ⟨orig, dir, wsel, rfl⟩
  all_goals rfl

/-- Under the R6 values the capacity always suffices, so CONFIG fails for want of a time unit or for its bit count. -/
theorem configFailure_prn_eq_some {bits : Byte} {teP : Bit} {st : Status} (h : configFailure prn bits teP = some st) :
    (teP = 0 ∧ st = .errMissingTe) ∨ (teP = 1 ∧ bits ≠ 24 ∧ st = .errBitCount) := by
  rcases configFailure_cases prn bits teP with ⟨hp, hf⟩ | ⟨hp, hb, hf⟩ | ⟨-, hb, hc, -⟩ | ⟨-, -, -, hf⟩
  · exact .inl ⟨hp, by simpa [hf] using h.symm⟩
  · exact .inr ⟨hp, fun h24 => hb (by rw [h24]; rfl), by simpa [hf] using h.symm⟩
  · rw [hb] at hc
    exact absurd hc (by decide)
  · simp [hf] at h

/-- The status R251 names is the one the command's way of ending answers. -/
theorem Effect.answers_statusOf {s t : State} {i : Instr} (h : Effect s i t) :
    ∃ p, t.responses = s.responses ++ [⟨Claims.statusOf i s, p⟩] := by
  cases h with
  | read i hi p => exact ⟨p, by rw [statusOf_of_pureRead hi]; rfl⟩
  | configFails serial button bits te teP guard guardP rep repP st hst =>
    refine ⟨.none, ?_⟩
    rcases configFailure_prn_eq_some hst with ⟨rfl, rfl⟩ | ⟨rfl, hb, rfl⟩
    · rfl
    · simpa [Claims.statusOf] using hb
  | setvbtnFails v hv => exact ⟨.none, by simp [Claims.statusOf, Nat.lt_of_not_le hv]⟩
  | setvbtn v hv => exact ⟨.none, by simp [Claims.statusOf, Nat.not_lt_of_le hv]⟩
  | next =>
    obtain ⟨v, l, d, hresp⟩ := nextPulse_responses s
    exact ⟨.pulse v l d, hresp⟩
  | _ => exact ⟨_, rfl⟩

/-- Only the two failing ways of ending have a status other than OK, and neither writes a register. -/
theorem Effect.registers_eq_of_failure {s t : State} {i : Instr} (h : Effect s i t) (hst : Claims.statusOf i s ≠ .ok) :
    t.dec = s.dec ∧ t.record = s.record ∧ t.enc = s.enc ∧ t.ctx = s.ctx := by
  cases h with
  | read | configFails | setvbtnFails => exact ⟨rfl, rfl, rfl, rfl⟩
  | setvbtn v hv => exact absurd (if_neg (Nat.not_lt_of_le hv)) hst
  | _ => exact absurd rfl hst

/-- Settles O45: the status by the way the command ends; `ERR_CAPACITY` from the validation of CONFIG; 7 from the opcodes
that do not decode. -/
theorem statusTable : Obligations.StatusTable := by
  refine ⟨rfl, rfl, rfl, rfl, rfl, rfl, fun st => by cases st <;> decide, fun i s => ?_, ?_, ?_⟩
  · obtain ⟨t, ht, he⟩ := exec_effect i s
    obtain ⟨p, hp⟩ := he.answers_statusOf
    exact ⟨t, p, ht, hp, he.registers_eq_of_failure⟩
  · exact fun _ _ _ _ _ _ _ _ _ _ hb hc => configure_of_failure (configFailure_of_capacity_lt hb hc)
  · exact fun _ _ _ hp hres => step_of_decode_error hp (decode_of_isReserved hres)

/-! ## Isolation

What a unit does and answers is the same when the registers of the other unit are replaced by any values (R260). -/

/-- The commands of the Frame Decoder (42_decoder.md). -/
def IsDecoderCommand (i : Instr) : Prop := (∃ l d, i = .feed l d) ∨ i = .drst ∨ i = .rdrec ∨ i = .hash

/-- The commands of the Frame Encoder (43_encoder.md). -/
def IsEncoderCommand (i : Instr) : Prop :=
  (∃ s b n t tp g gp r rp, i = .config s b n t tp g gp r rp) ∨ i = .next ∨ i = .stop

/-- A decoder command keeps the encoder and the context, and commutes with replacing them (R260). -/
theorem exec_decoderCommand {i : Instr} (hi : IsDecoderCommand i) (s : State) :
    ∃ t, exec i s = .next t ∧ t.enc = s.enc ∧ t.ctx = s.ctx ∧ ∀ e c q,
      exec i { s with enc := e, ctx := c, pending := q } = .next { t with enc := e, ctx := c, pending := q } := by
  rcases hi with ⟨level, dur, rfl⟩ | rfl | rfl | rfl <;> exact ⟨_, rfl, rfl, rfl, fun _ _ _ => rfl⟩

section
variable (s : State) (d : DecRegs) (r : RecRegs) (q : List Command)

theorem configure_with_decoder (c : Config) (serial : Data) (button bits : Byte) (te : Dur) (teP : Bit) (guard : Dur)
    (guardP : Bit) (rep : Dur) (repP : Bit) :
    State.configure c serial button bits te teP guard guardP rep repP { s with dec := d, record := r, pending := q }
      = { s.configure c serial button bits te teP guard guardP rep repP with dec := d, record := r, pending := q } := by
  unfold State.configure
  cases configFailure c bits teP <;> rfl

theorem nextPulse_with_decoder :
    State.nextPulse { s with dec := d, record := r, pending := q }
      = { s.nextPulse with dec := d, record := r, pending := q } := by
  unfold State.nextPulse
  cases s.enc.playing <;> rfl

end

/-- An encoder command keeps the decoder and the record, and commutes with replacing them (R260). -/
theorem exec_encoderCommand {i : Instr} (hi : IsEncoderCommand i) (s : State) :
    ∃ t, exec i s = .next t ∧ t.dec = s.dec ∧ t.record = s.record ∧ ∀ d r q,
      exec i { s with dec := d, record := r, pending := q } = .next { t with dec := d, record := r, pending := q } := by
  rcases hi with ⟨serial, button, bits, te, teP, guard, guardP, rep, repP, rfl⟩ | rfl | rfl
  · exact ⟨_, exec_config .., configure_dec .., configure_record ..,
      fun d r q => congrArg _ (configure_with_decoder s d r q prn serial button bits te teP guard guardP rep repP)⟩
  · exact ⟨_, exec_next s, nextPulse_dec s, nextPulse_record s,
      fun d r q => congrArg _ (nextPulse_with_decoder s d r q)⟩
  · exact ⟨_, rfl, rfl, rfl, fun _ _ _ => rfl⟩

/-- Settles O51: the second state is the first with the other unit's registers replaced. -/
theorem decoderAndEncoderAreIsolated : Obligations.DecoderAndEncoderAreIsolated := by
  constructor
  · intro i s₁ s₂ hi hdec hrec hresp
    have hs₂ : s₂ = { s₁ with enc := s₂.enc, ctx := s₂.ctx, pending := s₂.pending } := by rw [hdec, hrec, hresp]
    obtain ⟨t, ht, henc, hctx, hother⟩ := exec_decoderCommand hi s₁
    exact ⟨t, _, ht, (congrArg (exec i) hs₂).trans (hother ..), rfl, rfl, rfl, henc, rfl, hctx, rfl⟩
  · intro i s₁ s₂ hi henc hctx hresp
    have hs₂ : s₂ = { s₁ with dec := s₂.dec, record := s₂.record, pending := s₂.pending } := by rw [henc, hctx, hresp]
    obtain ⟨t, ht, hdec, hrec, hother⟩ := exec_encoderCommand hi s₁
    exact ⟨t, _, ht, (congrArg (exec i) hs₂).trans (hother ..), rfl, rfl, rfl, hdec, rfl, hrec, rfl⟩

/-! ## Completion -/

/-- Settles O50: nothing is pending, or the command taken is performed, or it is rejected. -/
theorem everyStepCompletes : Obligations.EveryStepCompletes := by
  intro s
  cases hp : s.pending with
  | nil => exact ⟨s, step_of_pending_nil hp⟩
  | cons cmd rest =>
    cases hd : decode cmd with
    | ok i =>
      obtain ⟨t, ht, -⟩ := exec_effect i { s with pending := rest }
      exact ⟨t, (step_of_decode_ok hp hd).trans ht⟩
    | error e => exact ⟨_, step_of_decode_error hp hd⟩

end Sys2Proof.Machine
end

section
/-! Reset and hazards (R281 to R289): a stopped encoder, the distance between two finalizes, one frame against the
previous-frame word, the cleared context, and the guard gap as a preamble: the facts of the family
70_reset_and_hazards.md. -/

namespace Sys2Proof.Machine

/-! ## A stopped encoder -/

/-- Only a CONFIG that succeeds sets the running flag again (R36, R288). -/
theorem Effect.run_eq_zero {s t : State} {i : Instr} (h : Effect s i t) (hi : isGoodConfig i = false)
    (hrun : s.enc.run = 0) : t.enc.run = 0 := by
  cases h with
  | config => exact absurd hi (by simp [isGoodConfig])
  | next =>
    rw [nextPulse_of_finished (.inr hrun)]
    rfl
  | stop => rfl
  | _ => exact hrun

theorem execAll_keeps_stopped (is : List Instr) {s : State} (his : ∀ i ∈ is, isGoodConfig i = false)
    (hrun : s.enc.run = 0) : ∃ t, execAll is s = .next t ∧ t.enc.run = 0 := by
  refine execAll_keeps (Inv := fun t => t.enc.run = 0) (fun i u hi hu => ?_) is s his hrun
  obtain ⟨t, ht, he⟩ := exec_effect i u
  exact ⟨t, ht, he.run_eq_zero hi hu⟩

/-- NEXT on a stopped encoder is finished and changes no register (R202). -/
theorem nextPulse_of_stopped {s : State} (hrun : s.enc.run = 0) : s.nextPulse = s.respond .ok (.pulse 0 0 0) := by
  rw [nextPulse_of_finished (.inr hrun), EncRegs.clearRun_of_not_running hrun]
  rfl

/-- Settles O32: the running flag stays 0 after STOP, and a successful CONFIG leaves a new pass with its repeats. -/
theorem stopIsFinalUntilConfig : Obligations.StopIsFinalUntilConfig := by
  intro s t ht is his
  obtain rfl := Host.Outcome.next.inj ((exec_stop s).symm.trans ht)
  obtain ⟨u, hu, hrun⟩ := execAll_keeps_stopped (s := (s.withEnc s.enc.clearRun).respond .ok .none) is his rfl
  refine ⟨u, hu, ?_, fun serial button te guard guardP rep hrep => ?_⟩
  · rw [exec_next, nextPulse_of_stopped hrun]
    rfl
  · obtain ⟨p, -, hnext⟩ :=
      nextPulse_of_configured hrep (configure_enc_of_good serial button te guard guardP rep 1 u)
    exact ⟨_, _, p.level, p.dur, exec_config .., exec_next _, by rw [hnext]; rfl⟩

/-! ## The distance between two finalizes -/

/-- A FEED that finalizes is a frame boundary (R160, R161). -/
theorem feedRegs_eq_frameBoundary_of_found {c : Config} {level : Bit} {dur : Dur} {d : DecRegs} {r : RecRegs}
    (h : (feedRegs c level dur d r).found = true) : feedRegs c level dur d r = frameBoundary c dur d r := by
  rcases feedRegs_record c level dur d r with ⟨hf, -⟩ | ⟨-, -, hs, hl, hg, -⟩
  · simp [hf] at h
  · obtain rfl : level = 0 := (bit_zero_or_one level).resolve_right hl
    exact feedRegs_armedLow_gap hs hg

/-- A boundary clears the accumulators, so a whole frame is to come (R166). -/
theorem fifty_le_feedsToFinalize_frameBoundary (c : Config) (dur : Dur) (d : DecRegs) (r : RecRegs) :
    50 ≤ (frameBoundary c dur d r).dec.feedsToFinalize := by
  rw [feedsToFinalize_of_armedHigh rfl, feedsFromHigh_of_clear rfl rfl]
  split_ifs <;> decide

/-- Settles O52: a finalize is a boundary, after which the next finalize needs 50 FEEDs. -/
theorem fiftyFeedsBetweenFinalizes : Obligations.FiftyFeedsBetweenFinalizes := by
  intro level dur s t ht hresp is hcount
  obtain rfl := Host.Outcome.next.inj ((exec_feed s level dur).symm.trans ht)
  have hfound : (feedRegs prn level dur s.dec s.record).found = true :=
    (flagBit_eq_one _).mp (by simpa using hresp)
  have hfar := fifty_le_feedsToFinalize_frameBoundary prn dur s.dec s.record
  rw [← feedRegs_eq_frameBoundary_of_found hfound] at hfar
  exact execAll_no_finalize is _ ((Nat.lt_succ_of_le hcount).trans_le hfar)

/-! ## One frame against the previous-frame word -/

/-- PRE in Idle arms the decoder (R87, R152). -/
theorem execAll_pre_append {s : State} (hs : s.dec.state = .idle) (is : List Instr) :
    execAll (expandLine .pre ++ is) s = execAll is (s.fed s.dec.rearm 1) :=
  execAll_cons (feedIdlePreamble 14040 s hs (by decide) (by decide))

section
variable {x t g : Nat} (hx : x < 2 ^ 24) (htlo : 91 ≤ t) (hthi : t ≤ 689) (hglo : 15 ≤ g) (hghi : g ≤ 72)
  (hgap : 2340 ≤ t * g) {s : State} (hs : s.dec.state = .armedHigh) (hacc : s.dec.acc = 0) (hcnt : s.dec.cnt = 0)
  (hsum : s.dec.sum = 0)
include hx htlo hthi hglo hghi hgap hs hacc hcnt hsum

/-- FRAME, fed to a decoder with clear accumulators, is a pass of its word (R87, R196). -/
theorem execAll_frame :
    execAll (expandLine (.frame x t g)) s = .next (s.afterPass (BitVec.ofNat 64 x) (BitVec.ofNat 32 t) g) := by
  have hte : (BitVec.ofNat 32 t).toNat = t := Nat.mod_eq_of_lt (by omega)
  have hword : (BitVec.ofNat 64 x).toNat % 2 ^ 24 = x := by
    rw [BitVec.toNat_ofNat]
    omega
  rw [expandLine_frame_eq_feedsOf, execAll_pass (by rwa [hte]) (by rwa [hte]) hglo hghi (by rwa [hte]) hs hacc hcnt hsum,
    hword]

end

/-- Settles O54: PRE arms the decoder with clear accumulators, and FRAME is a pass of the previous-frame word. -/
theorem oneFrameValidatesAgainstPrevious : Obligations.OneFrameValidatesAgainstPrevious := by
  intro x t g s h0 hx htlo hthi hglo hghi hgap hs hprev
  have hword : BitVec.ofNat 64 x ≠ 0 := by bv_omega
  obtain ⟨hrec, hresp⟩ := State.afterPass_of_repeated (s := s.fed s.dec.rearm 1) (te := BitVec.ofNat 32 t) (g := g)
    hprev hword
  refine ⟨_, List.replicate 50 ⟨.ok, .found 0⟩, ?_, hrec, ?_, List.length_replicate, fun _ => List.eq_of_mem_replicate⟩
  · rw [execAll_pre_append hs, execAll_frame hx htlo hthi hglo hghi hgap rfl rfl rfl rfl]
  · rw [hresp, State.fed_responses, List.append_assoc s.responses, List.replicate_append_replicate]

/-! ## The context cleared -/

/-- Settles O37: SETVBTN 0 passes its check whatever `CTX_VMAX` is. -/
theorem contextClearing : Obligations.ContextClearing := by
  intro s
  rw [execAll_cons (exec_setorig s 0), execAll_cons (exec_setvbtn_of_le (Nat.zero_le _))]
  exact ⟨_, rfl, rfl, rfl, rfl, rfl, List.append_assoc ..⟩

/-! ## The guard gap as a preamble -/

/-- In Idle a low event arms the decoder exactly in the preamble window of R7 (R152, R153). -/
theorem exec_feed_arms_iff {s : State} (hs : s.dec.state = .idle) (dur : Dur) :
    (∃ t, exec (.feed 0 dur) s = .next t ∧ t.dec.state = .armedHigh) ↔ 3241 ≤ dur.toNat ∧ dur.toNat ≤ 24839 := by
  rw [← isPreamble_prn_iff]
  by_cases hp : isPreamble prn dur = true
  · exact iff_of_true ⟨_, exec_feed_eq_fed (feedRegs_idle_preamble hs hp), rfl⟩ hp
  · refine iff_of_false ?_ hp
    rintro ⟨t, ht, harmed⟩
    rw [exec_feed_eq_fed (feedRegs_idle_other hs fun h => hp h.2)] at ht
    obtain rfl := Host.Outcome.next.inj ht
    simp [hs] at harmed

/-- Settles O56: `390 * g` lies in the preamble window, 3241 to 24839, exactly for these ratios. -/
theorem guardGapSynchronises : Obligations.GuardGapSynchronises := by
  intro g s hg hs
  have hdur : (BitVec.ofNat 32 (390 * g)).toNat = 390 * g := Nat.mod_eq_of_lt (by omega)
  rw [exec_feed_arms_iff hs, hdur]
  omega

end Sys2Proof.Machine
end
